-- ==== Sys2Proof/Word.lean ====
section
/-! DEFINITION. The words of the buses and the two plain types the spec's prose counts with. -/

namespace Sys2Proof

/-- A byte is 8 bits (00_scope R10). -/
abbrev Byte := BitVec 8

/-- A StorageAddress is a 16-bit offset into the memory device (00_scope R6, ADDR_W). -/
abbrev StorageAddr := BitVec 16

/-- "A natural number or INF": the range of K_LEFT (10_state R36) and of POLL_LIMIT (00_scope R7). -/
inductive NatInf where
  | fin (n : Nat)
  | inf
  deriving DecidableEq, Repr, Inhabited

/-- BusResult (00_scope R19); the reason of a failure has no content in the spec and is left out. -/
inductive BusResult where
  | ok
  | failed
  deriving DecidableEq, Repr, Inhabited

end Sys2Proof
end

