-- ==== Sys2Proof/Config.lean ====
section
/-! DEFINITION. What an implementation fixes (the parameters of 00_scope R6, R7, R8) and the free values: opaque
constants with no body, of which nothing can be proved. -/

namespace Sys2Proof

/-- The parameters of 00_scope R6 and R7. They stand in State and no step writes them (log 5). -/
structure Params where
  /-- CAPACITY: bytes of the memory device. -/
  capacity : Nat
  /-- PAGE_SIZE: bytes of one page of the memory device. -/
  pageSize : Nat
  /-- PERIOD_MS: the pacing period. -/
  periodMs : Nat
  /-- CONV_DELAY_MS: the fixed conversion delay. -/
  convDelayMs : Nat
  /-- SENSOR_ADDR7: the sensor's 7-bit address. -/
  sensorAddr7 : BitVec 7
  /-- BROADCAST_ADDR8: the address byte of the broadcast address. -/
  broadcastAddr8 : Byte
  /-- SD_MASK: the shutdown bit of the configuration byte. -/
  sdMask : Byte
  /-- OS_MASK: the one-shot bit of the configuration byte. -/
  osMask : Byte
  /-- CFG_BASE: the other six bits of the configuration byte. -/
  cfgBase : Byte
  /-- POLL_LIMIT: the most status frames one MW.WAITRDY sends. -/
  pollLimit : NatInf
  deriving DecidableEq, Repr

/-- Exactly one bit of the byte is set (00_scope R7, SD_MASK and OS_MASK). -/
def oneBit (m : Byte) : Bool := m != 0#8 && (m &&& (m - 1#8)) == 0#8

/-- The constraints of 00_scope R7 and R8 on the parameters. -/
def Params.legal (p : Params) : Bool :=
  p.capacity == 2 ^ p.capacity.log2 && decide (2 ≤ p.capacity) && decide (p.capacity ≤ 65536)
    && p.pageSize == 2 ^ p.pageSize.log2 && decide (2 ≤ p.pageSize)
    && oneBit p.sdMask && oneBit p.osMask && p.sdMask != p.osMask
    && (p.cfgBase &&& (p.sdMask ||| p.osMask)) == 0#8
    && p.pollLimit != .fin 0

namespace Config

/-! The open parameters of 00_scope R7 at reset: free constants, each over every value the rule admits (log 5, 6). -/

/-- PERIOD_MS has no value in the source (92 D18). -/
opaque periodMs : Nat
/-- CONV_DELAY_MS has no value in the source (92 D19). -/
opaque convDelayMs : Nat
/-- SENSOR_ADDR7 has no value in the source (92 D20). -/
opaque sensorAddr7 : BitVec 7
/-- BROADCAST_ADDR8 has no value in the source (92 D20). -/
opaque broadcastAddr8 : Byte
/-- Which bit SD_MASK sets (92 D20). -/
opaque sdBit : Fin 8
/-- How many places above SD_MASK's bit, less one and modulo 8, OS_MASK's bit stands: never the same bit (92 D20). -/
opaque osStep : Fin 7
/-- CFG_BASE before its SD_MASK and OS_MASK bits are cleared (92 D20). -/
opaque cfgRest : Byte
/-- POLL_LIMIT is INF (none) or this number plus one (92 D13). -/
opaque pollExtra : Option Nat

/-! The environment's answers past the end of State.script (00_scope R12, R13; 20_memory R78, R84; log 7). -/

/-- The BusResult of the n-th bus primitive call. -/
opaque busResult : Nat → BusResult
/-- The two bytes the n-th temperature read returns, high byte first. -/
opaque sampleBytes : Nat → Byte × Byte
/-- The K_LEFT drawn at the n-th program operation that starts. -/
opaque programCycle : Nat → NatInf

/-! The draws of 00_scope R17, by the number of the draw and, where one draw gives several values, an index (log 8). -/

/-- draw_8(). -/
opaque freeByte : Nat → Nat → Byte
/-- A drawn bit (WEL index 0, WIP index 1, the sensor's conversion index 2). -/
opaque freeBit : Nat → Nat → Bool
/-- draw_7(): bits 7:1 of a status byte (30_encoding R110). -/
opaque freeStatus : Nat → BitVec 7
/-- A drawn RAW12 (10_state R42). -/
opaque freeRaw : Nat → BitVec 12
/-- A drawn K_LEFT (20_memory R77). -/
opaque freeCount : Nat → NatInf
/-- A drawn PEND, before it is cut to the addresses that exist (20_memory R76, R77). -/
opaque freePend : Nat → List (Nat × Byte)
/-- The byte a drawn MEM holds at an address (20_memory R71, R76, R77). -/
opaque freeCell : Nat → Nat → Byte

/-- The parameters at State.reset: the reference CAPACITY and PAGE_SIZE of 00_scope R6, the open ones free (R7). -/
def reference : Params :=
  let sd := 1#8 <<< sdBit.val
  let os := 1#8 <<< ((sdBit.val + 1 + osStep.val) % 8)
  { capacity := 8192
    pageSize := 32
    periodMs := periodMs
    convDelayMs := convDelayMs
    sensorAddr7 := sensorAddr7
    broadcastAddr8 := broadcastAddr8
    sdMask := sd
    osMask := os
    cfgBase := cfgRest &&& ~~~(sd ||| os)
    pollLimit := match pollExtra with
      | none => .inf
      | some n => .fin (n + 1) }

end Config

end Sys2Proof
end

