-- ==== Sys2Proof/Syntax.lean ====
section
/-! DEFINITION. One constructor per row of spec/opcode_table.json: the eight commands of CORE (30_encoding R92), the six
frames of the memory device (30_encoding R107) and the four transfers of the sensor (20_memory R80 to R83). -/

namespace Sys2Proof

inductive Instr where
  /-- SC.RESET (40_sensor_controller R120). -/
  | scReset
  /-- SC.CONFIG (40_sensor_controller R121). -/
  | scConfig
  /-- SC.READ (40_sensor_controller R122). -/
  | scRead
  /-- MW.WREN (41_memory_write_engine R140). -/
  | mwWren
  /-- MW.PAGEWRITE addr, len, data (41_memory_write_engine R141). -/
  | mwPageWrite (addr : StorageAddr) (len : Nat) (data : List Byte)
  /-- MW.WAITRDY (41_memory_write_engine R142). -/
  | mwWaitRdy
  /-- MR.READ addr, len (42_memory_read_engine R160). -/
  | mrRead (addr : StorageAddr) (len : Nat)
  /-- LO.RUN (43_logging_orchestrator R170). -/
  | loRun
  /-- DEV.READ: the read frame, n bytes clocked in (20_memory R70). -/
  | devRead (addr : StorageAddr) (n : Nat)
  /-- DEV.WRITE: the program frame (20_memory R71). -/
  | devWrite (addr : StorageAddr) (data : List Byte)
  /-- DEV.WRDI: the write-disable frame (20_memory R72). -/
  | devWrdi
  /-- DEV.WREN: the write-enable frame (20_memory R73). -/
  | devWren
  /-- DEV.RDSR: the status frame (20_memory R74). -/
  | devRdsr
  /-- DEV.WRSR: the write-status frame; its operand is not in the source, so any bytes (20_memory R75, log 24). -/
  | devWrsr (operand : List Byte)
  /-- SEN.RESET: the broadcast reset transfer (20_memory R80). -/
  | senReset
  /-- SEN.CONFIG: the configuration transfer (20_memory R81). -/
  | senConfig (value : Byte)
  /-- SEN.POINTER: the temperature-pointer transfer (20_memory R82). -/
  | senPointer
  /-- SEN.READ: the two-byte addressed read (20_memory R83). -/
  | senRead
  deriving DecidableEq, Repr

end Sys2Proof
end

