-- ==== Sys2Proof/WellFormed.lean ====
section
/-! DEFINITION. Which instructions have an encoding: the operand constraints of 30_encoding R91 and of the primitives
(00_scope R12, R13). -/

namespace Sys2Proof

/-- The operands of an instruction are ones its format can carry. -/
def Instr.wellFormed : Instr → Bool
  | .scReset => true
  | .scConfig => true
  | .scRead => true
  | .mwWren => true
  | .mwPageWrite _ len data => decide (data.length = len)
  | .mwWaitRdy => true
  | .mrRead _ _ => true
  | .loRun => true
  | .devRead _ n => decide (0 < n)
  | .devWrite _ data => !data.isEmpty
  | .devWrdi => true
  | .devWren => true
  | .devRdsr => true
  | .devWrsr _ => true
  | .senReset => true
  | .senConfig _ => true
  | .senPointer => true
  | .senRead => true

end Sys2Proof
end

