-- ==== Sys2Proof/Decode.lean ====
section
/-! DEFINITION. The encodings of 30_encoding: what arrives on the command port or on a bus, the decoder that reads an
instruction from it, total and rejecting by name, and the encoder. -/

namespace Sys2Proof

/-! ## Constants and assembly of bytes -/

/-- Memory opcodes (00_scope R6, 30_encoding R107). -/
def opWrsr : Byte := 0x01#8
def opWrite : Byte := 0x02#8
def opRead : Byte := 0x03#8
def opWrdi : Byte := 0x04#8
def opRdsr : Byte := 0x05#8
def opWren : Byte := 0x06#8

/-- Sensor register numbers (00_scope R6, 20_memory R52). -/
def ptrTemp : Byte := 0x00#8
def ptrConfig : Byte := 0x01#8
def cmdSensorReset : Byte := 0x06#8

/-- `addr[15:8]`, sent first (30_encoding R103). -/
def addrHi (a : StorageAddr) : Byte := a.extractLsb' 8 8

/-- `addr[7:0]`, sent second (30_encoding R103). -/
def addrLo (a : StorageAddr) : Byte := a.extractLsb' 0 8

/-- The device reassembles `a = {ah, al}` (30_encoding R103). -/
def joinAddr (ah al : Byte) : StorageAddr := ah ++ al

/-- `SA8 = zext_8(SENSOR_ADDR7) << 1` (30_encoding R93). -/
def Params.sa8 (p : Params) : Byte := (p.sensorAddr7.setWidth 8) <<< 1

/-- `CFG_SHUTDOWN = CFG_BASE | SD_MASK` (30_encoding R98). -/
def Params.cfgShutdown (p : Params) : Byte := p.cfgBase ||| p.sdMask

/-- `CFG_ONESHOT = CFG_BASE | SD_MASK | OS_MASK` (30_encoding R98). -/
def Params.cfgOneshot (p : Params) : Byte := p.cfgBase ||| p.sdMask ||| p.osMask

/-! ## Memory-bus frames -/

/-- A frame of the memory bus, as the device understands it (20_memory R70 to R79). -/
inductive Frame where
  | read (addr : StorageAddr) (n : Nat)
  | write (addr : StorageAddr) (data : List Byte)
  | wrdi
  | wren
  | rdsr
  | wrsr (operand : List Byte)
  /-- A first byte the spec does not list, or a frame not of its opcode's format (20_memory R79, 30_encoding R109). -/
  | unlisted (tx : List Byte) (rxLen : Nat)
  deriving DecidableEq, Repr

/-- What the device understands from the bytes transmitted and the number of bytes clocked in. A frame is recognised by
its first transmitted byte (20_memory section 5); formats 30_encoding R99 to R102. A frame that transmits no byte, which
MemTx cannot send (00_scope R13) and of which the spec says nothing, is taken as one the spec does not list (DESIGN CHOICE,
log 24). -/
def Frame.parse (tx : List Byte) (rxLen : Nat) : Frame :=
  match tx with
  | [] => .unlisted tx rxLen
  | op :: rest =>
    if op = opWren then
      if rest = [] ∧ rxLen = 0 then .wren else .unlisted tx rxLen
    else if op = opRdsr then
      if rest = [] ∧ rxLen = 1 then .rdsr else .unlisted tx rxLen
    else if op = opWrdi then
      if rest = [] ∧ rxLen = 0 then .wrdi else .unlisted tx rxLen
    else if op = opWrsr then
      if rxLen = 0 then .wrsr rest else .unlisted tx rxLen
    else if op = opRead then
      match rest with
      | [ah, al] => if rxLen = 0 then .unlisted tx rxLen else .read (joinAddr ah al) rxLen
      | _ => .unlisted tx rxLen
    else if op = opWrite then
      match rest with
      | ah :: al :: d =>
        if d = [] ∨ rxLen ≠ 0 then .unlisted tx rxLen else .write (joinAddr ah al) d
      | _ => .unlisted tx rxLen
    else .unlisted tx rxLen

/-- The transmitted bytes of a frame (30_encoding R99 to R102). -/
def Frame.txBytes : Frame → List Byte
  | .read a _ => [opRead, addrHi a, addrLo a]
  | .write a d => [opWrite, addrHi a, addrLo a] ++ d
  | .wrdi => [opWrdi]
  | .wren => [opWren]
  | .rdsr => [opRdsr]
  | .wrsr operand => opWrsr :: operand
  | .unlisted tx _ => tx

/-- The number of bytes a frame clocks in (30_encoding R99 to R102). -/
def Frame.rxLen : Frame → Nat
  | .read _ n => n
  | .write _ _ => 0
  | .wrdi => 0
  | .wren => 0
  | .rdsr => 1
  | .wrsr _ => 0
  | .unlisted _ n => n

/-! ## Sensor-bus writes -/

/-- An addressed write of the sensor bus, as the sensor understands it (20_memory R80 to R82). -/
inductive Transfer where
  | reset
  | config (value : Byte)
  | pointer
  /-- An address, register or length the spec does not describe (30_encoding R109). -/
  | unlisted
  deriving DecidableEq, Repr

/-- What the sensor understands from an addressed write (30_encoding R94 to R96). -/
def Transfer.parse (p : Params) (a8 : Byte) (bytes : List Byte) : Transfer :=
  match bytes with
  | [b] =>
    if b = cmdSensorReset ∧ a8 = p.broadcastAddr8 then .reset
    else if b = ptrTemp ∧ a8 = p.sa8 then .pointer
    else .unlisted
  | [b, v] => if b = ptrConfig ∧ a8 = p.sa8 then .config v else .unlisted
  | _ => .unlisted

/-! ## Requests, decoder, encoder -/

/-- What reaches the machine from outside: a command of the host in the fields of format CMD (30_encoding R91), a frame
or transfer another master puts on a bus (log 18), or the hardware reset event (70_reset R220). -/
inductive Request where
  | command (op : BitVec 3) (addr : StorageAddr) (len : Nat) (data : List Byte)
  | memFrame (tx : List Byte) (rxLen : Nat)
  | twiWrite (a8 : Byte) (bytes : List Byte)
  | twiRead (a8 : Byte) (n : Nat)
  | hardReset
  deriving DecidableEq, Repr

/-- Why a request is no instruction. -/
inductive Reject where
  /-- A command whose data is not a sequence of len bytes (30_encoding R91). -/
  | dataLength
  /-- A memory frame the spec does not describe (20_memory R79). -/
  | frame
  /-- A sensor write the spec does not describe (30_encoding R109). -/
  | sensorWrite
  /-- A sensor read the spec does not describe (30_encoding R109). -/
  | sensorRead
  deriving DecidableEq, Repr

/-- What the decoder reads from a request. -/
inductive Decoded where
  | instr (i : Instr)
  | resetEvent
  | rejected (why : Reject)
  deriving DecidableEq, Repr

/-- The instruction of a decoded request, if it is one. -/
def Decoded.instr? : Decoded → Option Instr
  | .instr i => some i
  | .resetEvent => none
  | .rejected _ => none

/-- Command codes (30_encoding R92); addr, len and data are ignored by the operations that do not use them (R91). A len
above CAPACITY is left to the range check of the operation (log 4). -/
def decodeCommand (op : BitVec 3) (addr : StorageAddr) (len : Nat) (data : List Byte) : Decoded :=
  match op.toNat with
  | 0 => .instr .scReset
  | 1 => .instr .scConfig
  | 2 => .instr .scRead
  | 3 => .instr .mwWren
  | 4 =>
    if data.length ≠ len then .rejected .dataLength else .instr (.mwPageWrite addr len data)
  | 5 => .instr .mwWaitRdy
  | 6 => .instr (.mrRead addr len)
  | _ => .instr .loRun

/-- The device instruction a frame is. -/
def Frame.decoded : Frame → Decoded
  | .read a n => .instr (.devRead a n)
  | .write a d => .instr (.devWrite a d)
  | .wrdi => .instr .devWrdi
  | .wren => .instr .devWren
  | .rdsr => .instr .devRdsr
  | .wrsr operand => .instr (.devWrsr operand)
  | .unlisted _ _ => .rejected .frame

/-- The sensor instruction an addressed write is. -/
def Transfer.decoded : Transfer → Decoded
  | .reset => .instr .senReset
  | .config v => .instr (.senConfig v)
  | .pointer => .instr .senPointer
  | .unlisted => .rejected .sensorWrite

/-- The decoder: total, rejecting by name. -/
def decode (p : Params) : Request → Decoded
  | .command op addr len data => decodeCommand op addr len data
  | .memFrame tx n => (Frame.parse tx n).decoded
  | .twiWrite a8 bytes => (Transfer.parse p a8 bytes).decoded
  | .twiRead a8 n => if a8 = p.sa8 ∧ n = 2 then .instr .senRead else .rejected .sensorRead
  | .hardReset => .resetEvent

/-- The encoder, from the same tables; fields an operation ignores are sent as zeros. -/
def encode (p : Params) : Instr → Request
  | .scReset => .command 0#3 0#16 0 []
  | .scConfig => .command 1#3 0#16 0 []
  | .scRead => .command 2#3 0#16 0 []
  | .mwWren => .command 3#3 0#16 0 []
  | .mwPageWrite addr len data => .command 4#3 addr len data
  | .mwWaitRdy => .command 5#3 0#16 0 []
  | .mrRead addr len => .command 6#3 addr len []
  | .loRun => .command 7#3 0#16 0 []
  | .devRead a n => .memFrame [opRead, addrHi a, addrLo a] n
  | .devWrite a d => .memFrame ([opWrite, addrHi a, addrLo a] ++ d) 0
  | .devWrdi => .memFrame [opWrdi] 0
  | .devWren => .memFrame [opWren] 0
  | .devRdsr => .memFrame [opRdsr] 1
  | .devWrsr operand => .memFrame (opWrsr :: operand) 0
  | .senReset => .twiWrite p.broadcastAddr8 [cmdSensorReset]
  | .senConfig v => .twiWrite p.sa8 [ptrConfig, v]
  | .senPointer => .twiWrite p.sa8 [ptrTemp]
  | .senRead => .twiRead p.sa8 2

/-- The request whose opcode-table bits are w: the table's three opcode spaces share their numbers (30_encoding R107), and
CORE takes its next operation from the command port, so w is read as a command: `cmd[2:0] = op`, and addr, len and data,
which the table gives no bits, are zero and empty (log 3). -/
def requestOfWord (_nbits w : Nat) : Request := .command (BitVec.ofNat 3 w) 0#16 0 []

/-- The instruction the decoder reads from an opcode-table word on the command port. -/
def decodeTableWord (nbits w : Nat) : Option Instr := (decode Config.reference (requestOfWord nbits w)).instr?

end Sys2Proof
end

