-- ==== Sys2Proof/Machine/State.lean ====
section
/-! DEFINITION. The state of CORE (10_state section 1), of the two attached devices (section 2), of the host's side and of
the environment, as plain data; the state right after reset (10_state R42). -/

namespace Sys2Proof.Machine

/-- SC_STATE (10_state R22). -/
inductive ScState where
  | idle
  | converting
  | decoded
  deriving DecidableEq, Repr, Inhabited

/-- MW_STATE (10_state R25). -/
inductive MwState where
  | idle
  | wren
  | program
  | poll
  deriving DecidableEq, Repr, Inhabited

/-- MR_STATE (10_state R28). -/
inductive MrState where
  | idle
  | read
  deriving DecidableEq, Repr, Inhabited

/-- LO_STATE (10_state R30). -/
inductive LoState where
  | idle
  | resetting
  | configuring
  | acquire
  | persist
  | pace
  | done
  deriving DecidableEq, Repr, Inhabited

/-- The five causes (60_exceptions R191 to R195). -/
inductive Cause where
  | busTransferFailed
  | acquisitionDegraded
  | boundaryHazard
  | writeTimedOut
  | commandRefused
  deriving DecidableEq, Repr, Inhabited

/-- The kind of a report: `Ok` or a cause (00_scope R15). -/
inductive Kind where
  | ok
  | cause (c : Cause)
  deriving DecidableEq, Repr, Inhabited

/-- The sites of reports (60_exceptions R196). -/
inductive Site where
  | scResetTx
  | scConfigTx
  | scReadTriggerTx
  | scReadPointerTx
  | scReadRx
  | scReadDecoded
  | mwWrenTx
  | mwProgramTx
  | mwPollTx
  | mwPollRx
  | mwPollLimit
  | mwPageWriteCheck
  | mrReadTx
  | mrReadRx
  | cmdCheck
  deriving DecidableEq, Repr, Inhabited

/-- The events of the trace (00_scope R18). -/
inductive Event where
  | tw (a8 : Byte) (bytes : List Byte) (r : BusResult)
  | tr (a8 : Byte) (n : Nat) (r : BusResult) (bytes : List Byte)
  | sel
  | des
  | tx (bytes : List Byte) (r : BusResult)
  | rx (n : Nat) (r : BusResult) (bytes : List Byte)
  | dly (ms : Nat)
  | rpt (kind : Kind) (site : Site)
  | ind (b : Bool)
  deriving DecidableEq, Repr

/-- The memory device (10_state R36) and its device-select line (00_scope R13). -/
structure MemDevice where
  /-- MEM: cells at strictly rising addresses, none equal to what an unlisted address reads as (log 10). -/
  mem : List Host.Cell
  /-- WEL, the write-enable latch. -/
  wel : Bool
  /-- WIP, the write-in-progress flag. -/
  wip : Bool
  /-- PEND: the bytes of the program operation in flight, at strictly rising addresses. -/
  pend : List Host.Cell
  /-- K_LEFT: how many further status reads will see WIP = 1. -/
  kLeft : NatInf
  /-- The device is selected. -/
  selected : Bool
  deriving DecidableEq, Repr

/-- The sensor (10_state R38, R39); its temperature is no state (R40). That its configuration register is one byte wide is
the model's choice: CORE sends one value byte, and 91 N5 leaves the width open (DESIGN CHOICE, log 17). -/
structure Sensor where
  /-- The register pointer. -/
  pointer : Byte
  /-- The configuration register. -/
  config : Byte
  /-- A one-shot conversion is in progress. -/
  converting : Bool
  deriving DecidableEq, Repr

/-- The environment's answers by call number; past the end of a list the answer is free (log 7). -/
structure Script where
  /-- BusResults of CORE's bus primitives (00_scope R12, R13). -/
  results : List BusResult
  /-- The two bytes of each temperature read (20_memory R84). -/
  samples : List (Byte × Byte)
  /-- The K_LEFT drawn at each program operation that starts (20_memory R78). -/
  cycles : List NatInf
  deriving DecidableEq, Repr

@[ext]
structure State where
  /-- The parameters (00_scope R6, R7); no step writes them. -/
  cfg : Params
  /-- SC_STATE (10_state R22). -/
  scState : ScState
  /-- SAMPLE_HI (10_state R23). -/
  sampleHi : Byte
  /-- SAMPLE_LO (10_state R23). -/
  sampleLo : Byte
  /-- RAW12 (10_state R24). -/
  raw12 : BitVec 12
  /-- MW_STATE (10_state R25). -/
  mwState : MwState
  /-- POLL_CNT (10_state R26). -/
  pollCnt : Nat
  /-- STATUS_BYTE (10_state R27). -/
  statusByte : Byte
  /-- MR_STATE (10_state R28). -/
  mrState : MrState
  /-- RDATA (10_state R29). -/
  rdata : List Byte
  /-- LO_STATE (10_state R30). -/
  loState : LoState
  /-- LOG_ADDR (10_state R31). -/
  logAddr : StorageAddr
  /-- DONE (10_state R32). -/
  done : Bool
  /-- ERR (10_state R33). -/
  err : BitVec 5
  /-- The memory device (10_state R36). -/
  dev : MemDevice
  /-- The sensor (10_state R38). -/
  sensor : Sensor
  /-- What the outside asks next, oldest first (log 1). -/
  requests : List Request
  /-- The trace T, oldest event first (00_scope R18). -/
  trace : List Event
  /-- The environment's answers (log 7). -/
  script : Script
  /-- How many bus primitives CORE has called. -/
  busCalls : Nat
  /-- How many temperature reads have been made. -/
  samples : Nat
  /-- How many program operations have started. -/
  programs : Nat
  /-- How many draws have been made (log 8). -/
  draws : Nat
  deriving DecidableEq, Repr

/-- Why the machine stops. -/
inductive Fault where
  /-- Raised by `step` when an engine register holds a value that exists only inside an operation (SC_CONVERTING,
  SC_DECODED, MW_WREN, MW_PROGRAM, MR_READ): no state a run from reset reaches holds one between steps. Safe: the machine
  stops where the spec has no state (log 20). -/
  | insideOperation
  deriving DecidableEq, Repr

/-- Why an instruction is not executed. -/
inductive Refusal where
  /-- Raised by an arm of `exec` for an instruction with no meaning yet; no arm does. Safe. -/
  | notModelled (mnemonic : String)
  /-- Raised by every meaning when BUSY = 1: "the model has no step for that case" (10_state R34). Safe (log 19). -/
  | busy
  /-- Raised by `step` for a command that is none of format CMD (30_encoding R91). Safe (log 4). -/
  | malformedCommand
  deriving DecidableEq, Repr

/-- The machine right after hardware reset (10_state R42) at launch (70_reset R222). What R42 leaves unspecified is draw
number 0, a free constant (log 9); nothing is listed in MEM (log 10); the parameters are Config.reference (log 5). -/
def State.reset : State :=
  { cfg := Config.reference
    scState := .idle
    sampleHi := Config.freeByte 0 0
    sampleLo := Config.freeByte 0 1
    raw12 := Config.freeRaw 0
    mwState := .idle
    pollCnt := 0
    statusByte := Config.freeByte 0 2
    mrState := .idle
    rdata := []
    loState := .idle
    logAddr := 0#16
    done := false
    err := 0#5
    dev :=
      { mem := []
        wel := Config.freeBit 0 0
        wip := false
        pend := []
        kLeft := .fin 0
        selected := false }
    sensor :=
      { pointer := Config.freeByte 0 3
        config := Config.freeByte 0 4
        converting := Config.freeBit 0 2 }
    requests := []
    trace := []
    script := { results := [], samples := [], cycles := [] }
    busCalls := 0
    samples := 0
    programs := 0
    draws := 1 }

end Sys2Proof.Machine
end

