-- ==== Sys2Proof/Machine/Flags.lean ====
section
/-! DEFINITION. Every flag: the ERR bits and their codes, the bits of the status byte, BUSY (10_state R33, R34, R35, R37). -/

namespace Sys2Proof.Machine

/-- The code of a cause (30_encoding R115). -/
def Cause.code : Cause → Nat
  | .busTransferFailed => 1
  | .acquisitionDegraded => 2
  | .boundaryHazard => 3
  | .writeTimedOut => 4
  | .commandRefused => 5

/-- "A cause with kind k sets ERR bit k-1" (30_encoding R115; the table of 10_state R33). -/
def Cause.bit (c : Cause) : BitVec 5 := 1#5 <<< (c.code - 1)

/-- The code of a report's kind (30_encoding R115). -/
def Kind.code : Kind → Nat
  | .ok => 0
  | .cause c => c.code

/-- The code of a site (60_exceptions R196). -/
def Site.code : Site → Nat
  | .scResetTx => 0
  | .scConfigTx => 1
  | .scReadTriggerTx => 2
  | .scReadPointerTx => 3
  | .scReadRx => 4
  | .scReadDecoded => 5
  | .mwWrenTx => 6
  | .mwProgramTx => 7
  | .mwPollTx => 8
  | .mwPollRx => 9
  | .mwPollLimit => 10
  | .mwPageWriteCheck => 11
  | .mrReadTx => 12
  | .mrReadRx => 13
  | .cmdCheck => 14

/-- The status byte `s` with `s[0] = WIP` and `s[7:1]` given (20_memory R74, 30_encoding R104). -/
def statusOf (upper : BitVec 7) (wip : Bool) : Byte := upper ++ BitVec.ofBool wip

/-- CORE decodes a status byte as `busy = s[0]` (30_encoding R104). -/
def statusWip (status : Byte) : Bool := status.getLsbD 0

/-- The orchestrator is in neither of the states LO_IDLE and LO_DONE. -/
def LoState.running : LoState → Bool
  | .idle => false
  | .resetting => true
  | .configuring => true
  | .acquire => true
  | .persist => true
  | .pace => true
  | .done => false

/-- BUSY (10_state R34); an SC.RESET or SC.CONFIG transaction is never in progress between steps. -/
def State.busy (s : State) : Bool :=
  s.scState != .idle || s.mwState != .idle || s.mrState != .idle || s.loState.running

/-- The failure of either of two primitives of one frame. -/
def bothOk : BusResult → BusResult → BusResult
  | .ok, .ok => .ok
  | .ok, .failed => .failed
  | .failed, _ => .failed

end Sys2Proof.Machine
end

