-- ==== Sys2Proof/Machine/Operands.lean ====
section
/-! DEFINITION. The operand checks, the decode of a sample and the address arithmetic of the operations. -/

namespace Sys2Proof.Machine

/-- `decode(hi, lo)` of 40_sensor_controller R123: unsigned, right-justified (90_conflicts C1, C2). -/
def decodeSample (hi lo : Byte) : BitVec 12 :=
  (((hi.setWidth 16) <<< 4) ||| ((lo.setWidth 16) >>> 4)).setWidth 12

/-- The temperature in degrees Celsius, exactly RAW12/16 (10_state R24, 40_sensor_controller R125); not a register. -/
def celsius (raw : BitVec 12) : Rat := (raw.toNat : Rat) / 16

/-- `len >= 1` and `addr + len <= CAPACITY`, the sum not truncated (41 R143 check 1, 42 R161, 20_memory R60). -/
def inRange (p : Params) (addr : StorageAddr) (len : Nat) : Bool :=
  decide (1 ≤ len) && decide (addr.toNat + len ≤ p.capacity)

/-- `(addr mod PAGE_SIZE) + len <= PAGE_SIZE` (41_memory_write_engine R143 check 2, 20_memory R59). -/
def inPage (p : Params) (addr : StorageAddr) (len : Nat) : Bool :=
  decide (addr.toNat % p.pageSize + len ≤ p.pageSize)

/-- The pacing test `zext_17(LOG_ADDR) + 2 < CAPACITY` (43_logging_orchestrator R173, R181). -/
def moreSlots (p : Params) (addr : StorageAddr) : Bool := decide (addr.toNat + 2 < p.capacity)

/-- N_ITER = CAPACITY/2 (00_scope R6). -/
def iterations (p : Params) : Nat := p.capacity / 2

/-- The bytes of a program frame (30_encoding R101, R103). -/
def programBytes (addr : StorageAddr) (data : List Byte) : List Byte :=
  [opWrite, addrHi addr, addrLo addr] ++ data

/-- The transmitted bytes of a read frame (30_encoding R102, R103). -/
def readBytes (addr : StorageAddr) : List Byte := [opRead, addrHi addr, addrLo addr]

/-- The address inside the device that byte i of a program frame for `a` goes to: it wraps within the page
(20_memory R71). -/
def pageTarget (p : Params) (a i : Nat) : Nat := a - a % p.pageSize + (a % p.pageSize + i) % p.pageSize

/-- The bytes of the addressed page, for a frame whose first address is a. Where the address does not exist the spec does
not say which page that is (91 N9), and it is all of MEM; where a read frame runs over several pages (DEV.READ, MR.READ) the
spec does not say which of them is "the addressed page" (20_memory R76), and it is the page of a alone: both DESIGN CHOICE
(log 13). -/
def touched (p : Params) (a : Nat) : List Nat :=
  if a < p.capacity then (List.range p.capacity).filter (fun x => x / p.pageSize == a / p.pageSize)
  else List.range p.capacity

end Sys2Proof.Machine
end

