-- ==== Sys2Proof/Machine/Ops.lean ====
section
/-! DEFINITION. The named operations every meaning is made of: memory cells, the trace, raising a cause, the environment's
answers, the draws, the primitives that touch no device, and the hardware reset. -/

namespace Sys2Proof.Machine

/-! ## Cells -/

/-- The byte listed at an address. -/
def Cells.get? (a : Nat) : List Host.Cell → Option Byte
  | [] => none
  | c :: r => if c.1 = a then some c.2 else Cells.get? a r

/-- List a byte at an address, keeping the addresses rising. -/
def Cells.set (a : Nat) (b : Byte) : List Host.Cell → List Host.Cell
  | [] => [(a, b)]
  | c :: r =>
    if a < c.1 then (a, b) :: c :: r
    else if a = c.1 then (a, b) :: r
    else c :: Cells.set a b r

/-- List no byte at an address. -/
def Cells.erase (a : Nat) (m : List Host.Cell) : List Host.Cell := m.filter (fun c => c.1 != a)

/-- The addresses of a list of cells rise strictly. -/
abbrev Cells.rising (m : List Host.Cell) : Prop := m.Pairwise (fun c d => c.1 < d.1)

/-- Every address of a list of cells is below a bound. -/
abbrev Cells.below (n : Nat) (m : List Host.Cell) : Prop := ∀ c ∈ m, c.1 < n

/-- What an unlisted address of MEM reads as (log 10). -/
def Memory.unlisted : Byte := 0#8

/-- The canonical form of MEM: addresses strictly rising, no entry equal to what an unlisted address reads as. -/
abbrev Memory.wf (m : List Host.Cell) : Prop := Cells.rising m ∧ ∀ c ∈ m, c.2 ≠ Memory.unlisted

/-- MEM[a]. -/
def Memory.read (a : Nat) (m : List Host.Cell) : Byte := (Cells.get? a m).getD Memory.unlisted

/-- `MEM[a] <- b`, keeping the canonical form. -/
def Memory.write (a : Nat) (b : Byte) (m : List Host.Cell) : List Host.Cell :=
  if b = Memory.unlisted then Cells.erase a m else Cells.set a b m

/-- `MemRead(a, n)` (00_scope R11). -/
def Memory.readMany (a n : Nat) (m : List Host.Cell) : List Byte :=
  (List.range n).map (fun i => Memory.read (a + i) m)

/-- Write every cell of a list, in order. -/
def Memory.writeCells (cs m : List Host.Cell) : List Host.Cell :=
  cs.foldl (fun m c => Memory.write c.1 c.2 m) m

/-! ## The environment's answers and the draws -/

/-- The BusResult of the k-th primitive call to come (00_scope R12, R13; log 7). Every call has one: every bus primitive
returns, the first liveness premise of 70_reset R237 (log 30). -/
def State.result (s : State) (k : Nat) : BusResult :=
  (s.script.results[s.busCalls + k]?).getD (Config.busResult (s.busCalls + k))

/-- The two bytes of the k-th temperature read to come (20_memory R84; log 7). -/
def State.sample (s : State) (k : Nat) : Byte × Byte :=
  (s.script.samples[s.samples + k]?).getD (Config.sampleBytes (s.samples + k))

/-- The K_LEFT drawn at the k-th program operation to come (20_memory R78; log 7). -/
def State.cycle (s : State) (k : Nat) : NatInf :=
  (s.script.cycles[s.programs + k]?).getD (Config.programCycle (s.programs + k))

/-- n drawn bytes of draw number t. -/
def drawBytes (t n : Nat) : List Byte := (List.range n).map (fun i => Config.freeByte t i)

/-! ## The trace, reports and causes -/

/-- Append one event to the trace (00_scope R18). -/
def log (e : Event) (s : State) : State := { s with trace := s.trace ++ [e] }

/-- `Report(kind, site)` (00_scope R15). -/
def report (k : Kind) (site : Site) (s : State) : State := log (.rpt k site) s

/-- `raise Cause(site)`: the sticky bit, the report, and execution goes on (00_scope R15, 60_exceptions R199). It is what
this hardware has in place of taking an exception; there is no return (R200). -/
def raise (c : Cause) (site : Site) (s : State) : State :=
  report (.cause c) site { s with err := s.err ||| c.bit }

/-- BusTransferFailed for a primitive that returned `Failed`, reported immediately (60_exceptions R191, R198). -/
def noteFailure (r : BusResult) (site : Site) (s : State) : State :=
  match r with
  | .ok => s
  | .failed => raise .busTransferFailed site s

/-- The report of SC.RESET and SC.CONFIG: `Ok` too is reported (40_sensor_controller R120, R121; 60_exceptions R196). -/
def reportResult (r : BusResult) (site : Site) (s : State) : State :=
  match r with
  | .ok => report .ok site s
  | .failed => raise .busTransferFailed site s

/-! ## Primitives -/

/-- One bus primitive CORE calls: its event, and one answer of the environment used. -/
def callBus (e : Event) (s : State) : State := log e { s with busCalls := s.busCalls + 1 }

/-- `MemSelect()` (00_scope R13). -/
def memSelect (s : State) : State := log .sel { s with dev := { s.dev with selected := true } }

/-- `MemDeselect()` (00_scope R13). -/
def memDeselect (s : State) : State := log .des { s with dev := { s.dev with selected := false } }

/-- `Delay(ms)`: an event and nothing else (00_scope R14). It returns, the second liveness premise of 70_reset R237
(log 30). -/
def delay (ms : Nat) (s : State) : State := log (.dly ms) s

/-- `SetDone(b)` (00_scope R16). -/
def setDone (b : Bool) (s : State) : State := log (.ind b) { s with done := b }

/-! ## Issuing an operation; the hardware reset -/

/-- An operation is issued only when BUSY = 0; otherwise there is no move (10_state R34, log 19). -/
def whenIdle (f : State → State) (s : State) : Host.Outcome State Fault Refusal :=
  if s.busy then .refused .busy else .next (f s)

/-- The hardware reset event (70_reset R220, 10_state R42): every CORE register, no event, no bus activity, no device. -/
def coreReset (s : State) : State :=
  { s with
    scState := .idle
    sampleHi := Config.freeByte s.draws 0
    sampleLo := Config.freeByte s.draws 1
    raw12 := Config.freeRaw s.draws
    mwState := .idle
    pollCnt := 0
    statusByte := Config.freeByte s.draws 2
    mrState := .idle
    rdata := []
    loState := .idle
    logAddr := 0#16
    done := false
    err := 0#5
    draws := s.draws + 1 }

end Sys2Proof.Machine
end

