-- ==== Sys2Proof/Machine/Sensor.lean ====
section
/-! DEFINITION. The sensor (20_memory section 6), its transfers as CORE calls them, and the meanings of the SEN rows. -/

namespace Sys2Proof.Machine

/-- Sensor state of which nothing is known: its reset condition (20_memory R80), after a failed transfer (R86), after a
transfer the spec does not describe (30_encoding R109). -/
def Sensor.unknown (t : Nat) : Sensor :=
  { pointer := Config.freeByte t 3, config := Config.freeByte t 4, converting := Config.freeBit t 2 }

/-- The sensor between two transfers. In shutdown mode a conversion ends on its own, at a time the spec does not give
(20_memory R81), and none starts; with the shutdown bit clear conversions run continuously, and the spec does not say when
one is in progress, so the bit is free at every transfer (DESIGN CHOICE, log 17). -/
def Sensor.settle (p : Params) (t : Nat) (n : Sensor) : Sensor :=
  { n with
    converting :=
      if n.config &&& p.sdMask = 0#8 then Config.freeBit t 2 else n.converting && Config.freeBit t 2 }

/-- SEN.CONFIG (20_memory R81): the configuration takes v, the pointer is the first byte (10_state R38, log 17). With the
shutdown and one-shot bits set a conversion starts. With the shutdown bit alone none starts, and what was in progress is
what `settle` leaves: the spec does not say whether a continuous conversion begun since the last transfer is then in
progress, so after continuous mode the bit is free (DESIGN CHOICE, log 17). Without the shutdown bit conversions run
continuously and the bit is free (DESIGN CHOICE, log 17). -/
def Sensor.configure (p : Params) (t : Nat) (v : Byte) (n : Sensor) : Sensor :=
  { pointer := ptrConfig
    config := v
    converting :=
      if v &&& p.sdMask = 0#8 then Config.freeBit t 2
      else if v &&& p.osMask = 0#8 then (n.settle p t).converting
      else true }

/-- What the sensor does with an addressed write that returned `Ok` (20_memory R80 to R82). -/
def Sensor.takes (p : Params) (t : Nat) (f : Transfer) (n : Sensor) : Sensor :=
  match f with
  | .reset => Sensor.unknown t
  | .config v => n.configure p t v
  | .pointer => { n.settle p t with pointer := ptrTemp }
  | .unlisted => Sensor.unknown t

/-- The sensor receives an addressed write. One draw is used. -/
def sensorHears (r : BusResult) (f : Transfer) (s : State) : State :=
  match r with
  | .ok => { s with sensor := s.sensor.takes s.cfg s.draws f, draws := s.draws + 1 }
  | .failed => { s with sensor := Sensor.unknown s.draws, draws := s.draws + 1 }

/-- The sensor is read: no side effect (20_memory R63, R83); after a failed read its state is unspecified (R86). One draw
and one sample are used. -/
def sensorRead (r : BusResult) (s : State) : State :=
  match r with
  | .ok => { s with sensor := s.sensor.settle s.cfg s.draws, draws := s.draws + 1, samples := s.samples + 1 }
  | .failed => { s with sensor := Sensor.unknown s.draws, draws := s.draws + 1, samples := s.samples + 1 }

/-- `TwiWrite(a8, bytes)` of CORE returning r (00_scope R12). -/
def twiWrite (r : BusResult) (a8 : Byte) (bytes : List Byte) (s : State) : State :=
  sensorHears r (Transfer.parse s.cfg a8 bytes) (callBus (.tw a8 bytes r) s)

/-- `TwiRead(a8, 2)` of CORE returning r and the environment's two bytes (00_scope R12, 20_memory R84; log 25). -/
def twiRead (r : BusResult) (a8 : Byte) (s : State) : State :=
  sensorRead r (callBus (.tr a8 2 r [(s.sample 0).1, (s.sample 0).2]) s)

/-- One addressed write put on the sensor bus by another master, returning `Ok` (20_memory section 6; log 18). -/
def foreignWrite (a8 : Byte) (bytes : List Byte) (s : State) : State :=
  sensorHears .ok (Transfer.parse s.cfg a8 bytes) (log (.tw a8 bytes .ok) s)

/-- The two-byte addressed read put on the sensor bus by another master, returning `Ok` and the environment's two bytes,
high byte first (20_memory R83, R84; log 18). -/
def foreignRead (s : State) : State :=
  sensorRead .ok (log (.tr s.cfg.sa8 2 .ok [(s.sample 0).1, (s.sample 0).2]) s)

/-- A sensor write the spec does not describe leaves the sensor unspecified (30_encoding R109). -/
def strangeWrite (a8 : Byte) (bytes : List Byte) (s : State) : State :=
  sensorHears .ok .unlisted (log (.tw a8 bytes .ok) s)

/-- A sensor read the spec does not describe: drawn bytes, the sensor unspecified by a further draw (30_encoding R109). -/
def strangeRead (a8 : Byte) (n : Nat) (s : State) : State :=
  sensorHears .ok .unlisted (log (.tr a8 n .ok (drawBytes s.draws n)) { s with draws := s.draws + 1 })

/-- SEN.RESET (20_memory R80). -/
def execSenReset (s : State) : Host.Outcome State Fault Refusal :=
  whenIdle (foreignWrite s.cfg.broadcastAddr8 [cmdSensorReset]) s

/-- SEN.CONFIG (20_memory R81). -/
def execSenConfig (value : Byte) (s : State) : Host.Outcome State Fault Refusal :=
  whenIdle (foreignWrite s.cfg.sa8 [ptrConfig, value]) s

/-- SEN.POINTER (20_memory R82). -/
def execSenPointer (s : State) : Host.Outcome State Fault Refusal :=
  whenIdle (foreignWrite s.cfg.sa8 [ptrTemp]) s

/-- SEN.READ (20_memory R83). -/
def execSenRead (s : State) : Host.Outcome State Fault Refusal := whenIdle foreignRead s

/-- A sensor write the spec does not describe (30_encoding R109). -/
def unlistedWrite (a8 : Byte) (bytes : List Byte) (s : State) : Host.Outcome State Fault Refusal :=
  whenIdle (strangeWrite a8 bytes) s

/-- A sensor read the spec does not describe (30_encoding R109). -/
def unlistedRead (a8 : Byte) (n : Nat) (s : State) : Host.Outcome State Fault Refusal :=
  whenIdle (strangeRead a8 n) s

end Sys2Proof.Machine
end

