-- ==== Sys2Proof/Machine/SensorController.lean ====
section
/-! DEFINITION. SC, the two-wire sensor controller (40_sensor_controller). -/

namespace Sys2Proof.Machine

/-- SC.RESET (R120). -/
def scReset (s : State) : State :=
  let r := s.result 0
  reportResult r .scResetTx (twiWrite r s.cfg.broadcastAddr8 [cmdSensorReset] s)

/-- SC.CONFIG (R121). -/
def scConfig (s : State) : State :=
  let r := s.result 0
  reportResult r .scConfigTx (twiWrite r s.cfg.sa8 [ptrConfig, s.cfg.cfgShutdown] s)

/-- Step 4 of SC.READ: the two bytes received, or two draws (R122, R128). -/
def takeSample (r : BusResult) (bytes : Byte × Byte) (s : State) : State :=
  match r with
  | .ok => { s with sampleHi := bytes.1, sampleLo := bytes.2 }
  | .failed =>
    let s := raise .busTransferFailed .scReadRx s
    { s with sampleHi := Config.freeByte s.draws 0, sampleLo := Config.freeByte s.draws 1, draws := s.draws + 1 }

/-- AcquisitionDegraded, once, when any of the three transfers failed (R130). -/
def noteDegraded (r1 r3 r4 : BusResult) (s : State) : State :=
  match bothOk (bothOk r1 r3) r4 with
  | .ok => s
  | .failed => raise .acquisitionDegraded .scReadDecoded s

/-- SC.READ (R122): every step is performed whatever the earlier ones returned (R127). -/
def scRead (s : State) : State :=
  let r1 := s.result 0
  let r3 := s.result 1
  let r4 := s.result 2
  let bytes := s.sample 0
  let s := noteFailure r1 .scReadTriggerTx (twiWrite r1 s.cfg.sa8 [ptrConfig, s.cfg.cfgOneshot] s)
  let s := delay s.cfg.convDelayMs { s with scState := .converting }
  let s := noteFailure r3 .scReadPointerTx (twiWrite r3 s.cfg.sa8 [ptrTemp] s)
  let s := takeSample r4 bytes (twiRead r4 s.cfg.sa8 s)
  let s := { s with scState := .decoded, raw12 := decodeSample s.sampleHi s.sampleLo }
  let s := noteDegraded r1 r3 r4 s
  { s with scState := .idle }

/-- SC.RESET (R120). -/
def execScReset (s : State) : Host.Outcome State Fault Refusal := whenIdle scReset s

/-- SC.CONFIG (R121). -/
def execScConfig (s : State) : Host.Outcome State Fault Refusal := whenIdle scConfig s

/-- SC.READ (R122). -/
def execScRead (s : State) : Host.Outcome State Fault Refusal := whenIdle scRead s

end Sys2Proof.Machine
end

