-- ==== Sys2Proof/Machine/Device.lean ====
section
/-! DEFINITION. The memory device (20_memory section 5): what it does with a complete frame, with a frame in which a
primitive failed, and what it answers; the frames CORE puts on the memory bus; the meanings of the DEV rows. -/

namespace Sys2Proof.Machine

/-! ## Unspecified device state -/

/-- MEM with the bytes of draw t at the given addresses. -/
def drawMem (t : Nat) (addrs : List Nat) (m : List Host.Cell) : List Host.Cell :=
  addrs.foldl (fun m a => Memory.write a (Config.freeCell t a) m) m

/-- A drawn PEND over the addresses that `keep` admits. -/
def drawPend (t : Nat) (keep : Nat → Bool) : List Host.Cell :=
  (Config.freePend t).foldl (fun q c => if keep c.1 then Cells.set c.1 c.2 q else q) []

/-- Device state of which nothing may be relied on (20_memory R71 with WEL = 0, R72, R75, R79; log 12). PEND is the data
of a program operation in flight, so it is empty where WIP is drawn 0 (log 14). -/
def MemDevice.unknown (p : Params) (t : Nat) (d : MemDevice) : MemDevice :=
  let wip := Config.freeBit t 1
  { d with
    mem := drawMem t (List.range p.capacity) d.mem
    wel := Config.freeBit t 0
    wip := wip
    pend := if wip then drawPend t (fun a => a < p.capacity) else []
    kLeft := Config.freeCount t }

/-- A frame other than read-status while WIP = 1: WEL, PEND and the addressed page are unspecified (20_memory R76). Which
bytes that page is, and that a write-enable frame addresses none, is log 13. -/
def MemDevice.disturbed (p : Params) (t : Nat) (addrs : List Nat) (d : MemDevice) : MemDevice :=
  { d with
    mem := drawMem t addrs d.mem
    wel := Config.freeBit t 0
    pend := drawPend t (fun a => a < p.capacity) }

/-! ## Complete frames -/

/-- Self-timed completion: PEND becomes part of MEM, WIP and WEL are cleared (20_memory R78). -/
def MemDevice.commit (d : MemDevice) : MemDevice :=
  { d with mem := Memory.writeCells d.pend d.mem, pend := [], wip := false, wel := false }

/-- The device's part of a status read (20_memory R74). -/
def MemDevice.statusRead (d : MemDevice) : MemDevice :=
  if d.wip then
    match d.kLeft with
    | .fin 0 => d.commit
    | .fin (k + 1) => { d with kLeft := .fin k }
    | .inf => d
  else d

/-- Bytes placed one by one, from byte i of the frame on, a later byte replacing an earlier one (20_memory R71, log 16). -/
def placeBytes (p : Params) (a i : Nat) : List Byte → List Host.Cell → List Host.Cell
  | [], q => q
  | b :: r, q => placeBytes p a (i + 1) r (Cells.set (pageTarget p a i) b q)

/-- Every byte of a program frame goes to an address that exists (log 15). -/
def targetsExist (p : Params) (a n : Nat) : Bool :=
  decide (a < p.capacity) && (List.range n).all (fun i => decide (pageTarget p a i < p.capacity))

/-- A program frame with WEL = 1 and WIP = 0 starts a program operation. -/
def MemDevice.starts (p : Params) (f : Frame) (d : MemDevice) : Bool :=
  match f with
  | .write a data => d.wel && !d.wip && targetsExist p a.toNat data.length
  | .read _ _ => false
  | .wrdi => false
  | .wren => false
  | .rdsr => false
  | .wrsr _ => false
  | .unlisted _ _ => false

/-- A program operation starts: PEND takes the bytes, WIP is set, K_LEFT is drawn (20_memory R71). -/
def MemDevice.program (p : Params) (k : NatInf) (a : Nat) (data : List Byte) (d : MemDevice) : MemDevice :=
  { d with pend := placeBytes p a 0 data d.pend, wip := true, kLeft := k }

/-- What the device does with one complete frame (20_memory R70 to R76, R79); t numbers the draw, k is the environment's
K_LEFT. -/
def MemDevice.complete (p : Params) (t : Nat) (k : NatInf) (f : Frame) (d : MemDevice) : MemDevice :=
  match f with
  | .read a _ => if d.wip then d.disturbed p t (touched p a.toNat) else d
  | .write a data =>
    if !d.wel || !targetsExist p a.toNat data.length then d.unknown p t
    else if d.wip then d.disturbed p t (touched p a.toNat)
    else d.program p k a.toNat data
  | .wrdi => d.unknown p t
  | .wren => if d.wip then d.disturbed p t [] else { d with wel := true }
  | .rdsr => d.statusRead
  | .wrsr _ => d.unknown p t
  | .unlisted _ _ => d.unknown p t

/-- The bytes clocked in during a complete frame (20_memory R70, R74, R76). -/
def MemDevice.answer (p : Params) (t : Nat) (f : Frame) (d : MemDevice) : List Byte :=
  match f with
  | .read a n =>
    if !d.wip && decide (1 ≤ n) && decide (a.toNat + n ≤ p.capacity) then Memory.readMany a.toNat n d.mem
    else drawBytes t n
  | .write _ _ => []
  | .wrdi => []
  | .wren => []
  | .rdsr => [statusOf (Config.freeStatus t) d.statusRead.wip]
  | .wrsr _ => []
  | .unlisted _ n => drawBytes t n

/-! ## Frames in which a primitive failed -/

/-- After a failed program frame WEL, WIP, K_LEFT, PEND and the addressed page are unspecified (20_memory R77; log 11);
where WIP was 1, PEND is unspecified beyond the page too (R76). -/
def MemDevice.programFailed (p : Params) (t a : Nat) (d : MemDevice) : MemDevice :=
  let wip := Config.freeBit t 1
  { d with
    mem := drawMem t (touched p a) d.mem
    wel := Config.freeBit t 0
    wip := wip
    pend :=
      if wip then drawPend t (fun x => x < p.capacity && (d.wip || (touched p a).contains x)) else []
    kLeft := Config.freeCount t }

/-- What a frame in which a primitive returned `Failed` leaves of the device (20_memory R77). -/
def MemDevice.failed (p : Params) (t : Nat) (f : Frame) (d : MemDevice) : MemDevice :=
  match f with
  | .read _ _ => d
  | .write a _ => d.programFailed p t a.toNat
  | .wrdi => d.unknown p t
  | .wren => if d.wip then d.disturbed p t [] else { d with wel := Config.freeBit t 0 }
  | .rdsr => d
  | .wrsr _ => d.unknown p t
  | .unlisted _ _ => d.unknown p t

/-! ## The device inside State -/

/-- The device receives a frame: complete, or with a failed primitive. One draw is used. -/
def deviceHears (r : BusResult) (f : Frame) (s : State) : State :=
  match r with
  | .ok =>
    { s with
      dev := s.dev.complete s.cfg s.draws (s.cycle 0) f
      programs := if s.dev.starts s.cfg f then s.programs + 1 else s.programs
      draws := s.draws + 1 }
  | .failed => { s with dev := s.dev.failed s.cfg s.draws f, draws := s.draws + 1 }

/-- A frame of CORE that only transmits: formats MF-OP and MF-WRITE (30_encoding R99, R101); the report of a failed
transmit comes before the deselect (90_conflicts C11). -/
def frameOut (tx : List Byte) (site : Site) (s : State) : State :=
  let r := s.result 0
  let s := callBus (.tx tx r) (memSelect s)
  let s := noteFailure r site s
  memDeselect (deviceHears r (Frame.parse tx 0) s)

/-- Both primitives of the coming receiving frame return `Ok`. -/
def frameInResult (s : State) : BusResult := bothOk (s.result 0) (s.result 1)

/-- The bytes the coming receiving frame clocks in: the device's answer, or draws where a primitive fails (20_memory R77,
log 26). -/
def frameInBytes (tx : List Byte) (n : Nat) (s : State) : List Byte :=
  match frameInResult s with
  | .ok => s.dev.answer s.cfg s.draws (Frame.parse tx n)
  | .failed => drawBytes s.draws n

/-- A frame of CORE that transmits and then receives n bytes: formats MF-RDSR and MF-READ (30_encoding R100, R102). -/
def frameIn (tx : List Byte) (n : Nat) (siteTx siteRx : Site) (s : State) : State :=
  let r := frameInResult s
  let r1 := s.result 0
  let r2 := s.result 1
  let bytes := frameInBytes tx n s
  let s := callBus (.tx tx r1) (memSelect s)
  let s := noteFailure r1 siteTx s
  let s := callBus (.rx n r2 bytes) s
  let s := noteFailure r2 siteRx s
  memDeselect (deviceHears r (Frame.parse tx n) s)

/-- One complete frame put on the memory bus by another master, every primitive `Ok` (20_memory section 5; log 18). -/
def foreignFrame (f : Frame) (s : State) : State :=
  let bytes := s.dev.answer s.cfg s.draws f
  let s := log (.tx f.txBytes .ok) (memSelect s)
  let s := if f.rxLen = 0 then s else log (.rx f.rxLen .ok bytes) s
  memDeselect (deviceHears .ok f s)

/-! ## The meanings of the DEV rows -/

/-- DEV.READ (20_memory R70, R76). -/
def execDevRead (addr : StorageAddr) (n : Nat) (s : State) : Host.Outcome State Fault Refusal :=
  whenIdle (foreignFrame (.read addr n)) s

/-- DEV.WRITE (20_memory R71, R76). -/
def execDevWrite (addr : StorageAddr) (data : List Byte) (s : State) : Host.Outcome State Fault Refusal :=
  whenIdle (foreignFrame (.write addr data)) s

/-- DEV.WRDI: the device state afterwards is unspecified (20_memory R72). -/
def execDevWrdi (s : State) : Host.Outcome State Fault Refusal := whenIdle (foreignFrame .wrdi) s

/-- DEV.WREN (20_memory R73, R76). -/
def execDevWren (s : State) : Host.Outcome State Fault Refusal := whenIdle (foreignFrame .wren) s

/-- DEV.RDSR (20_memory R74). -/
def execDevRdsr (s : State) : Host.Outcome State Fault Refusal := whenIdle (foreignFrame .rdsr) s

/-- DEV.WRSR: the device state afterwards is unspecified (20_memory R75). -/
def execDevWrsr (operand : List Byte) (s : State) : Host.Outcome State Fault Refusal :=
  whenIdle (foreignFrame (.wrsr operand)) s

/-- A frame the spec does not describe leaves the device state unspecified (20_memory R79, 30_encoding R109). -/
def unlistedFrame (tx : List Byte) (rxLen : Nat) (s : State) : Host.Outcome State Fault Refusal :=
  whenIdle (foreignFrame (.unlisted tx rxLen)) s

end Sys2Proof.Machine
end

