-- ==== Sys2Proof/Machine/WriteEngine.lean ====
section
/-! DEFINITION. MW, the serial memory write engine (41_memory_write_engine). -/

namespace Sys2Proof.Machine

/-- MW.WREN, leaving MW_STATE at `after`: MW_IDLE when the host issues it, MW_PROGRAM inside MW.PAGEWRITE (R140, R146). -/
def mwWren (after : MwState) (s : State) : State :=
  let s := frameOut [opWren] .mwWrenTx { s with mwState := .wren }
  { s with mwState := after }

/-- `POLL_LIMIT != INF and POLL_CNT = POLL_LIMIT` (R142). -/
def pollExhausted (s : State) : Bool := s.cfg.pollLimit == .fin s.pollCnt

/-- The end of a status frame: the count, and the status byte where both primitives returned `Ok` (R142, R149). -/
def takeStatus (r : BusResult) (bytes : List Byte) (s : State) : State :=
  let s := { s with pollCnt := s.pollCnt + 1 }
  match r, bytes with
  | .ok, b :: _ => { s with statusByte := b, mwState := if statusWip b then s.mwState else .idle }
  | .ok, [] => s
  | .failed, _ => s

/-- One pass of the loop of MW.WAITRDY (R142): the limit is tested at the head (R145), otherwise one status frame is
sent. MW_STATE stays MW_POLL where the loop goes on: the next step makes the next pass (log 1). -/
def pollPass (s : State) : State :=
  if pollExhausted s then { raise .writeTimedOut .mwPollLimit s with mwState := .idle }
  else takeStatus (frameInResult s) (frameInBytes [opRdsr] 1 s) (frameIn [opRdsr] 1 .mwPollTx .mwPollRx s)

/-- MW.WAITRDY up to the end of its first pass (R142). -/
def waitRdy (s : State) : State := pollPass { s with mwState := .poll, pollCnt := 0 }

/-- MW.PAGEWRITE (R141): the two checks in order (R143), then MW.WREN, the program frame and MW.WAITRDY, no failure
skipping a later step (R144). -/
def pageWrite (addr : StorageAddr) (len : Nat) (data : List Byte) (s : State) : State :=
  if !inRange s.cfg addr len then raise .commandRefused .cmdCheck s
  else if !inPage s.cfg addr len then raise .boundaryHazard .mwPageWriteCheck s
  else waitRdy (frameOut (programBytes addr (data.take len)) .mwProgramTx (mwWren .program s))

/-- MW.WREN (R140). -/
def execMwWren (s : State) : Host.Outcome State Fault Refusal := whenIdle (mwWren .idle) s

/-- MW.PAGEWRITE (R141). -/
def execMwPageWrite (addr : StorageAddr) (len : Nat) (data : List Byte) (s : State) :
    Host.Outcome State Fault Refusal :=
  whenIdle (pageWrite addr len data) s

/-- MW.WAITRDY (R142). -/
def execMwWaitRdy (s : State) : Host.Outcome State Fault Refusal := whenIdle waitRdy s

end Sys2Proof.Machine
end

