-- ==== Sys2Proof/Machine/Logging.lean ====
section
/-! DEFINITION. LO, the logging orchestrator FSM (43_logging_orchestrator), and how an operation that is not over goes on
in the next step. -/

namespace Sys2Proof.Machine

/-- LO.RUN is accepted only in LO_IDLE (R178); its first action is `SetDone(0)`, and LO_STATE becomes LO_RESETTING (R170,
R171). The steps that follow run the orchestrator (log 1). -/
def loStart (s : State) : State :=
  match s.loState with
  | .idle => { setDone false s with loState := .resetting }
  | .resetting => raise .commandRefused .cmdCheck s
  | .configuring => raise .commandRefused .cmdCheck s
  | .acquire => raise .commandRefused .cmdCheck s
  | .persist => raise .commandRefused .cmdCheck s
  | .pace => raise .commandRefused .cmdCheck s
  | .done => raise .commandRefused .cmdCheck s

/-- When MW.PAGEWRITE has returned in LO_PERSIST: LO_PACE while slots remain, else `SetDone(1)` and LO_DONE (R171, R173,
R174). -/
def afterPersist (s : State) : State :=
  if s.loState = .persist ∧ s.mwState = .idle then
    if moreSlots s.cfg s.logAddr then { s with loState := .pace }
    else { setDone true s with loState := .done }
  else s

/-- LO_RESETTING: SC.RESET (R171). -/
def loResetting (s : State) : State := { scReset s with loState := .configuring }

/-- LO_CONFIGURING: SC.CONFIG, then `LOG_ADDR <- 0` (R171). -/
def loConfiguring (s : State) : State := { scConfig s with loState := .acquire, logAddr := 0#16 }

/-- LO_ACQUIRE: SC.READ (R171). -/
def loAcquire (s : State) : State := { scRead s with loState := .persist }

/-- LO_PERSIST: MW.PAGEWRITE(LOG_ADDR, [SAMPLE_HI, SAMPLE_LO], 2) (R170, 30_encoding R106). -/
def loPersist (s : State) : State := afterPersist (pageWrite s.logAddr 2 [s.sampleHi, s.sampleLo] s)

/-- LO_PACE: Delay(PERIOD_MS), then `LOG_ADDR <- LOG_ADDR + 2` (R170, R171). -/
def loPace (s : State) : State :=
  { delay s.cfg.periodMs s with loState := .acquire, logAddr := s.logAddr + 2#16 }

/-- The orchestrator's next move when no other engine is at work. -/
def loStep (s : State) : State :=
  match s.loState with
  | .idle => s
  | .resetting => loResetting s
  | .configuring => loConfiguring s
  | .acquire => loAcquire s
  | .persist => loPersist s
  | .pace => loPace s
  | .done => s

/-- A step while BUSY = 1: the poll makes its next pass, or the orchestrator its next move. -/
def resume (s : State) : Host.Outcome State Fault Refusal :=
  if s.scState = .idle ∧ s.mrState = .idle then
    match s.mwState with
    | .idle => .next (loStep s)
    | .wren => .fault .insideOperation
    | .program => .fault .insideOperation
    | .poll => .next (afterPersist (pollPass s))
  else .fault .insideOperation

/-- LO.RUN (R170). -/
def execLoRun (s : State) : Host.Outcome State Fault Refusal := whenIdle loStart s

end Sys2Proof.Machine
end

