-- ==== Sys2Proof/Machine/ReadEngine.lean ====
section
/-! DEFINITION. MR, the serial memory read engine (42_memory_read_engine). -/

namespace Sys2Proof.Machine

/-- RDATA after a read frame: the bytes received, or len draws where a primitive failed (R160, R164). -/
def takeData (r : BusResult) (bytes : List Byte) (len : Nat) (s : State) : State :=
  match r with
  | .ok => { s with rdata := bytes }
  | .failed => { s with rdata := drawBytes s.draws len, draws := s.draws + 1 }

/-- MR.READ (R160, R161). What a read of several pages leaves of MEM while WIP = 1 is a choice of the model (log 13). -/
def memoryRead (addr : StorageAddr) (len : Nat) (s : State) : State :=
  if !inRange s.cfg addr len then raise .commandRefused .cmdCheck s
  else
    let s := { s with mrState := .read }
    let s := takeData (frameInResult s) (frameInBytes (readBytes addr) len s) len
      (frameIn (readBytes addr) len .mrReadTx .mrReadRx s)
    { s with mrState := .idle }

/-- MR.READ (R160). -/
def execMrRead (addr : StorageAddr) (len : Nat) (s : State) : Host.Outcome State Fault Refusal :=
  whenIdle (memoryRead addr len) s

end Sys2Proof.Machine
end

