-- ==== Sys2Proof/Machine/Dispatch.lean ====
section
/-! DEFINITION. The meaning of every instruction, one arm per constructor. -/

namespace Sys2Proof.Machine

def exec (i : Instr) (s : State) : Host.Outcome State Fault Refusal :=
  match i with
  | .scReset => Sys2Proof.Machine.execScReset s
  | .scConfig => Sys2Proof.Machine.execScConfig s
  | .scRead => Sys2Proof.Machine.execScRead s
  | .mwWren => Sys2Proof.Machine.execMwWren s
  | .mwPageWrite addr len data => Sys2Proof.Machine.execMwPageWrite addr len data s
  | .mwWaitRdy => Sys2Proof.Machine.execMwWaitRdy s
  | .mrRead addr len => Sys2Proof.Machine.execMrRead addr len s
  | .loRun => Sys2Proof.Machine.execLoRun s
  | .devRead addr n => Sys2Proof.Machine.execDevRead addr n s
  | .devWrite addr data => Sys2Proof.Machine.execDevWrite addr data s
  | .devWrdi => Sys2Proof.Machine.execDevWrdi s
  | .devWren => Sys2Proof.Machine.execDevWren s
  | .devRdsr => Sys2Proof.Machine.execDevRdsr s
  | .devWrsr operand => Sys2Proof.Machine.execDevWrsr operand s
  | .senReset => Sys2Proof.Machine.execSenReset s
  | .senConfig value => Sys2Proof.Machine.execSenConfig value s
  | .senPointer => Sys2Proof.Machine.execSenPointer s
  | .senRead => Sys2Proof.Machine.execSenRead s

end Sys2Proof.Machine
end

