-- ==== Sys2Proof/Machine/Requests.lean ====
section
/-! DEFINITION. Taking the oldest request: the decoded instruction is executed, the reset event resets CORE, and what is
no instruction has the effect the spec gives it. -/

namespace Sys2Proof.Machine

/-- What a request that is no instruction does (20_memory R79, 30_encoding R91, R109). -/
def rejected (r : Request) (s : State) : Host.Outcome State Fault Refusal :=
  match r with
  | .command _ _ _ _ => .refused .malformedCommand
  | .memFrame tx n => unlistedFrame tx n s
  | .twiWrite a8 bytes => unlistedWrite a8 bytes s
  | .twiRead a8 n => unlistedRead a8 n s
  | .hardReset => .next (coreReset s)

/-- A request, taken from the queue, is carried out. -/
def serve (r : Request) (s : State) : Host.Outcome State Fault Refusal :=
  match decode s.cfg r with
  | .instr i => exec i s
  | .resetEvent => .next (coreReset s)
  | .rejected _ => rejected r s

/-- A step while BUSY = 0: CORE waits, or takes the oldest request (10_state R42; log 1, log 27). -/
def takeRequest (s : State) : Host.Outcome State Fault Refusal :=
  match s.requests with
  | [] => .next s
  | r :: rest => serve r { s with requests := rest }

/-- The state with BUSY = 0 that differs from s in the engine registers only, and only where s is busy. -/
def State.atRest (s : State) : State :=
  { s with
    scState := .idle
    mwState := .idle
    mrState := .idle
    loState := if s.loState.running then .idle else s.loState }

/-- s at rest, with a request as the next one taken. -/
def State.withRequest (s : State) (r : Request) : State :=
  { s.atRest with requests := r :: s.requests }

end Sys2Proof.Machine
end

