-- ==== Sys2Proof/Machine/Step.lean ====
section
/-! DEFINITION. One step of the machine. -/

namespace Sys2Proof.Machine

/-- One step: an operation in progress goes on (BUSY = 1), or the oldest request is taken. -/
def step (s : State) : Host.Outcome State Fault Refusal :=
  if s.busy then resume s else takeRequest s

/-- s with the command whose opcode-table bits are w as the next request, at rest so that the very next step takes it
(log 2, log 3). -/
def State.withFetchWord (s : State) (nbits w : Nat) : State := s.withRequest (requestOfWord nbits w)

end Sys2Proof.Machine
end

