-- ==== Sys2Proof/Safety.lean ====
section
/-! DEFINITION. The terms claims are stated in: the launch premises, what a run without failures is, and the invariant of
the machine between steps. -/

namespace Sys2Proof.Machine

/-- Launch premises P2 to P5 of 70_reset R222; P1, bring-up, has no state. -/
structure State.launched (s : State) : Prop where
  idle : s.busy = false
  ready : s.dev.wip = false
  nothingPending : s.dev.pend = []
  deselected : s.dev.selected = false
  noError : s.err = 0#5

/-- No engine but the orchestrator and the poll is at work: what holds between any two steps. -/
def State.enginesRest (s : State) : Bool :=
  s.scState == .idle && s.mrState == .idle && (s.mwState == .idle || s.mwState == .poll)

/-- The next n primitive calls return `Ok`. -/
def State.okFor (s : State) (n : Nat) : Prop := ∀ k, k < n → s.result k = .ok

/-- Of the next n status frames, how many have both primitives `Ok`. -/
def State.goodFrames (s : State) (n : Nat) : Nat :=
  (List.range n).countP (fun i => bothOk (s.result (2 * i)) (s.result (2 * i + 1)) == .ok)

/-- u is reached in m steps from s, BUSY = 1 all the way and at u: the operation going on at s is not over at u. -/
def State.during (s : State) (m : Nat) (u : State) : Prop :=
  core.run m s = .next u ∧ ∀ (k : Nat) (v : State), k ≤ m → core.run k s = .next v → v.busy = true

/-- POLL_LIMIT admits n status frames. -/
def pollAdmits (p : Params) (n : Nat) : Bool :=
  match p.pollLimit with
  | .inf => true
  | .fin l => decide (n ≤ l)

/-- How many status reads of the i-th program operation to come see WIP = 1, where that is finite. -/
def State.busyReads (s : State) (i : Nat) : Nat :=
  match s.cycle i with
  | .fin k => k
  | .inf => 0

/-- How many primitive calls the first n iterations of a complete LO.RUN make when all of them return `Ok`: two before
the loop, then per slot three sensor transfers, the two frames of the write and two calls per status read. -/
def State.runCalls (s : State) : Nat → Nat
  | 0 => 2
  | n + 1 => s.runCalls n + 7 + 2 * s.busyReads n

/-- The BUSY loop state: MW.WAITRDY is polling. -/
def State.polling (s : State) : Bool :=
  s.scState == .idle && s.mrState == .idle && s.mwState == .poll

/-- LO_STATE, DONE and the events that follow the end of a poll or of a write: in LO_PERSIST the orchestrator moves on
(43_logging_orchestrator R171, R173, R174), elsewhere nothing follows. -/
def State.afterWrite (s : State) : LoState × Bool × List Event :=
  if s.loState = .persist then
    if s.logAddr.toNat + 2 < s.cfg.capacity then (.pace, s.done, []) else (.done, true, [.ind true])
  else (s.loState, s.done, [])

/-- Of the next n status frames each has a failed primitive. -/
def State.pollFailsFor (s : State) (n : Nat) : Prop :=
  ∀ k, k < n → bothOk (s.result (2 * k)) (s.result (2 * k + 1)) = .failed

/-- The device will never clear WIP (20_memory R78, K_LEFT = INF). -/
def MemDevice.neverReady (d : MemDevice) : Bool := d.wip && d.kLeft == .inf

/-- The report of a failed primitive, and nothing for one that returned `Ok` (60_exceptions R198). -/
def failureReport (r : BusResult) (site : Site) : List Event :=
  match r with
  | .ok => []
  | .failed => [.rpt (.cause .busTransferFailed) site]

/-- The kind SC.RESET and SC.CONFIG report for a result (40_sensor_controller R120, R121). -/
def resultKind (r : BusResult) : Kind :=
  match r with
  | .ok => .ok
  | .failed => .cause .busTransferFailed

/-- ERR with bit 0, BUS_FAIL, set where a primitive failed (10_state R33). -/
def busFail (r : BusResult) (err : BitVec 5) : BitVec 5 :=
  match r with
  | .ok => err
  | .failed => err ||| 0b00001#5

/-- ERR with bits 0 and 1, BUS_FAIL and ACQ_DEGRADED, set where a transfer of an SC.READ failed (10_state R33). -/
def degradedErr (r : BusResult) (err : BitVec 5) : BitVec 5 :=
  match r with
  | .ok => err
  | .failed => err ||| 0b00011#5

/-- The report AcquisitionDegraded where a transfer of an SC.READ failed (40_sensor_controller R130). -/
def degradedReport (r : BusResult) : List Event :=
  match r with
  | .ok => []
  | .failed => [.rpt (.cause .acquisitionDegraded) .scReadDecoded]

/-- The event transmits something other than the read-status opcode. -/
def Event.transmitsCommand : Event → Bool
  | .tw _ _ _ => false
  | .tr _ _ _ _ => false
  | .sel => false
  | .des => false
  | .tx bytes _ => bytes != [0x05#8]
  | .rx _ _ _ => false
  | .dly _ => false
  | .rpt _ _ => false
  | .ind _ => false

/-- The event is a status byte being clocked in. -/
def Event.isStatusRead : Event → Bool
  | .tw _ _ _ => false
  | .tr _ _ _ _ => false
  | .sel => false
  | .des => false
  | .tx _ _ => false
  | .rx n _ _ => n == 1
  | .dly _ => false
  | .rpt _ _ => false
  | .ind _ => false

/-- What CORE makes the outside do: an event without its answer, the status frames, the reports and the device-select line
left out. -/
inductive Action where
  | indicate (b : Bool)
  | pause (ms : Nat)
  | sensorWrite (a8 : Byte) (bytes : List Byte)
  | sensorRead (a8 : Byte) (n : Nat) (r : BusResult)
  | transmit (bytes : List Byte)
  deriving DecidableEq, Repr

/-- The action of an event, if it is one. -/
def Event.action? : Event → Option Action
  | .tw a8 bytes _ => some (.sensorWrite a8 bytes)
  | .tr a8 n r _ => some (.sensorRead a8 n r)
  | .sel => none
  | .des => none
  | .tx bytes _ => if bytes = [0x05#8] then none else some (.transmit bytes)
  | .rx _ _ _ => none
  | .dly ms => some (.pause ms)
  | .rpt _ _ => none
  | .ind b => some (.indicate b)

/-- What LO.RUN does for slot i when the temperature read returns r and the bytes persisted are d: an SC.READ, a
MW.PAGEWRITE at 2i, and the pacing delay while slots remain (43_logging_orchestrator R170, R173, R176). -/
def slotActions (p : Params) (i : Nat) (r : BusResult) (d : Byte × Byte) : List Action :=
  [.sensorWrite p.sa8 [0x01#8, p.cfgBase ||| p.sdMask ||| p.osMask], .pause p.convDelayMs, .sensorWrite p.sa8 [0x00#8],
    .sensorRead p.sa8 2 r, .transmit [0x06#8],
    .transmit [0x02#8, addrHi (BitVec.ofNat 16 (2 * i)), addrLo (BitVec.ofNat 16 (2 * i)), d.1, d.2]] ++
  if 2 * i + 2 < p.capacity then [.pause p.periodMs] else []

/-- The next request taken is the hardware reset event. -/
def State.resetNext (s : State) : Bool := !s.busy && s.requests.head? == some .hardReset

/-- The invariant between steps. -/
structure Inv (s : State) : Prop where
  /-- 00_scope R7, R8. -/
  legal : s.cfg.legal = true
  /-- MEM keeps its canonical form and has no address past CAPACITY-1. -/
  memCanonical : Memory.wf s.dev.mem
  memRange : Cells.below s.cfg.capacity s.dev.mem
  /-- PEND is a map over the device's addresses, empty while no program operation is in flight. -/
  pendRising : Cells.rising s.dev.pend
  pendRange : Cells.below s.cfg.capacity s.dev.pend
  pendIdle : s.dev.wip = false → s.dev.pend = []
  /-- No frame is open. -/
  deselected : s.dev.selected = false
  /-- Every engine is at rest or polling, and only a host's MW.WAITRDY or MW.PAGEWRITE or LO_PERSIST polls. -/
  rest : s.enginesRest = true
  pollOwner : s.mwState = .poll → s.loState.running = true → s.loState = .persist
  /-- POLL_CNT stays within POLL_LIMIT (10_state R26). -/
  pollBound : pollAdmits s.cfg s.pollCnt = true
  /-- LOG_ADDR is even and addresses a slot (10_state R21, R31). -/
  addrEven : s.logAddr.toNat % 2 = 0
  addrRange : s.logAddr.toNat + 2 ≤ s.cfg.capacity
  paceRoom : s.loState = .pace → moreSlots s.cfg s.logAddr = true
  /-- In LO_DONE the last slot has been visited (43 R172). -/
  lastSlot : s.loState = .done → s.logAddr.toNat + 2 = s.cfg.capacity
  /-- DONE is 1 exactly in LO_DONE (10_state R32, 43 R174). -/
  doneMeansDone : s.done = true ↔ s.loState = .done

end Sys2Proof.Machine
end

