-- ==== Sys2Proof/Certificates/Slice0/Obligations.lean ====
section
/-! DEFINITION. The statements for the provers. A form `t = { s with f := t.f }` says that t agrees with s in every field
but f. -/

open Sys2Proof Sys2Proof.Machine

/-! ## Encoding -/

/-- 30_encoding sections 1 to 4: the decoder reads every well-formed instruction back from its encoding. -/
def Obligations.DecodeOfEncode : Prop :=
  ∀ (p : Params) (i : Instr), i.wellFormed = true → decode p (encode p i) = .instr i

/-- What the decoder reads is well formed. -/
def Obligations.DecodedIsWellFormed : Prop :=
  ∀ (p : Params) (r : Request) (i : Instr), decode p r = .instr i → i.wellFormed = true

/-- A frame or transfer has one meaning: encoding what was read gives it back (a command may carry ignored fields). -/
def Obligations.EncodeOfDecodedTransfer : Prop :=
  ∀ (p : Params) (r : Request) (i : Instr), (∀ op a n d, r ≠ .command op a n d) → decode p r = .instr i → encode p i = r

/-- 30_encoding R92: all eight values of op are operations, in the order of the table, whatever the ignored fields. -/
def Obligations.EveryCommandCodeIsAnOperation : Prop :=
  ∀ (p : Params) (op : BitVec 3) (addr : StorageAddr) (len : Nat) (data : List Byte),
    (op = 4#3 → data.length = len) →
    ∃ i, [.scReset, .scConfig, .scRead, .mwWren, .mwPageWrite addr len data, .mwWaitRdy, .mrRead addr len,
        Instr.loRun][op.toNat]? = some i ∧ decode p (.command op addr len data) = .instr i

/-- A few words of 30_encoding R94 to R102, written out byte by byte. -/
def Obligations.ListedWordsDecode : Prop :=
  ∀ p : Params,
    decode p (.memFrame [0x02#8, 0x1F#8, 0xFE#8, 0x19#8, 0x00#8] 0) = .instr (.devWrite 0x1FFE#16 [0x19#8, 0x00#8]) ∧
    decode p (.memFrame [0x03#8, 0x1F#8, 0xFE#8] 2) = .instr (.devRead 0x1FFE#16 2) ∧
    decode p (.memFrame [0x05#8] 1) = .instr .devRdsr ∧
    decode p (.memFrame [0x06#8] 0) = .instr .devWren ∧
    decode p (.memFrame [0x07#8] 0) = .rejected .frame ∧
    decode p (.twiWrite p.sa8 [0x01#8, 0x81#8]) = .instr (.senConfig 0x81#8) ∧
    decode p (.command 6#3 0x1FFE#16 2 []) = .instr (.mrRead 0x1FFE#16 2)

/-- 30_encoding R103: the address bytes of a frame, and the device's reassembly. -/
def Obligations.AddressBytesAreBigEndian : Prop :=
  ∀ (a : StorageAddr) (d : List Byte),
    (addrHi a).toNat = a.toNat / 256 ∧ (addrLo a).toNat = a.toNat % 256 ∧
    readBytes a = [0x03#8, addrHi a, addrLo a] ∧ programBytes a d = 0x02#8 :: addrHi a :: addrLo a :: d ∧
    joinAddr (addrHi a) (addrLo a) = a

/-- 30_encoding R93: SA8 is the 7-bit address shifted left by one. -/
def Obligations.SensorAddressByte : Prop :=
  ∀ p : Params, p.sa8.toNat = 2 * p.sensorAddr7.toNat ∧ p.sa8.getLsbD 0 = false ∧
    ∀ k, k < 7 → p.sa8.getLsbD (k + 1) = p.sensorAddr7.getLsbD k

/-- 40_sensor_controller R123, R124: the decode, bit by bit and as a number; total, unsigned. -/
def Obligations.SampleDecodeBitByBit : Prop :=
  ∀ hi lo : Byte,
    (∀ k, k < 8 → (decodeSample hi lo).getLsbD (k + 4) = hi.getLsbD k) ∧
    (∀ k, k < 4 → (decodeSample hi lo).getLsbD k = lo.getLsbD (k + 4)) ∧
    (decodeSample hi lo).toNat = hi.toNat * 16 + lo.toNat / 16 ∧
    celsius (decodeSample hi lo) = ((hi.toNat * 16 + lo.toNat / 16 : Nat) : Rat) * (1 / 16)

/-! ## Steps and requests -/

/-- BUSY = 0: a step takes the oldest request and executes the instruction it decodes to (the queue of requests and the size
of a step are the model's, log 1). -/
def Obligations.StepExecutesDecodedRequest : Prop :=
  ∀ (s : State) (r : Request) (rest : List Request) (i : Instr),
    s.busy = false → s.requests = r :: rest → decode s.cfg r = .instr i →
    step s = exec i { s with requests := rest }

/-- The host's placement of an opcode-table word: the very next step executes it, from rest (the model's reading of such a
word, log 2 and log 3). -/
def Obligations.FetchedWordIsExecuted : Prop :=
  ∀ (s : State) (nbits w : Nat) (i : Instr), decodeTableWord nbits w = some i →
    step (s.withFetchWord nbits w) = exec i s.atRest

/-- 10_state R42: with nothing asked, CORE waits (a step that changes nothing, log 27). -/
def Obligations.IdleCoreWaits : Prop :=
  ∀ s : State, s.busy = false → s.requests = [] → step s = .next s

/-- 10_state R34: BUSY, and no operation is executed while it is 1 (that the model refuses it by name is log 19). -/
def Obligations.NoOperationWhileBusy : Prop :=
  ∀ s : State,
    (s.busy = true ↔ s.scState ≠ .idle ∨ s.mwState ≠ .idle ∨ s.mrState ≠ .idle ∨
      (s.loState ≠ .idle ∧ s.loState ≠ .done)) ∧
    (s.busy = true → ∀ i : Instr, exec i s = .refused .busy)

/-- 70_reset R238, 60_exceptions R190, R202: while BUSY = 0 every operation of CORE answers a next state: no operand and no
state stops it. So does every frame and transfer of the DEV and SEN rows (20_memory R70 to R75, R80 to R83), which are
another master's (log 18). -/
def Obligations.EveryInstructionAnswersWhenIdle : Prop :=
  ∀ (s : State) (i : Instr), s.busy = false → ∃ t, exec i s = .next t

/-- 70_reset R220 with the values of 10_state R42: every register, nothing of the devices, nothing of the trace; the
unspecified registers hold any value. The event is taken between operations (log 22). -/
def Obligations.HardwareResetSetsRegisters : Prop :=
  ∀ (s : State) (rest : List Request), s.busy = false → s.requests = .hardReset :: rest →
    ∃ t, step s = .next t ∧
      t = { s with
        requests := rest, scState := .idle, mwState := .idle, mrState := .idle, loState := .idle
        logAddr := 0#16, done := false, err := 0#5, pollCnt := 0, rdata := []
        sampleHi := t.sampleHi, sampleLo := t.sampleLo, raw12 := t.raw12, statusByte := t.statusByte
        draws := t.draws }

/-- 30_encoding R109: a frame or transfer the spec does not describe leaves every register of CORE as it was (that it reaches
the bus at all is log 18; what it leaves of the devices is log 12 and log 17). -/
def Obligations.UnlistedTransferLeavesCoreAlone : Prop :=
  ∀ (s : State) (r : Request) (rest : List Request) (why : Reject),
    s.busy = false → s.requests = r :: rest → decode s.cfg r = .rejected why →
    (∀ op a n d, r ≠ .command op a n d) →
    ∃ t, step s = .next t ∧
      t = { s with
        requests := rest, dev := t.dev, sensor := t.sensor, trace := t.trace, programs := t.programs
        draws := t.draws }

/-! ## SC -/

/-- 40_sensor_controller R120. -/
def Obligations.ScResetSendsBroadcast : Prop :=
  ∀ s : State, s.busy = false →
    ∃ t, exec .scReset s = .next t ∧
      t = { s with
        err := busFail (s.result 0) s.err
        trace := s.trace ++ [.tw s.cfg.broadcastAddr8 [0x06#8] (s.result 0), .rpt (resultKind (s.result 0)) .scResetTx]
        busCalls := s.busCalls + 1, sensor := t.sensor, draws := t.draws }

/-- 40_sensor_controller R121, 30_encoding R98. After an `Ok` transfer the sensor's configuration is the value written
(20_memory R81), and its pointer the first byte of the write (10_state R38), which the model infers (log 17). -/
def Obligations.ScConfigSelectsShutdown : Prop :=
  ∀ s : State, s.busy = false →
    ∃ t, exec .scConfig s = .next t ∧
      t = { s with
        err := busFail (s.result 0) s.err
        trace := s.trace ++
          [.tw s.cfg.sa8 [0x01#8, s.cfg.cfgBase ||| s.cfg.sdMask] (s.result 0),
            .rpt (resultKind (s.result 0)) .scConfigTx]
        busCalls := s.busCalls + 1, sensor := t.sensor, draws := t.draws } ∧
      (s.result 0 = .ok → t.sensor.config = s.cfg.cfgBase ||| s.cfg.sdMask ∧ t.sensor.pointer = 0x01#8)

/-- 40_sensor_controller R122, R127, R128, R130: every step is performed, each failure is reported at its place, the bytes
of an `Ok` read are kept, RAW12 is the decode of what SAMPLE_HI and SAMPLE_LO hold (the bytes in a failed read's event: log
25). -/
def Obligations.ScReadPerformsEveryStep : Prop :=
  ∀ s : State, s.busy = false →
    ∃ t, exec .scRead s = .next t ∧
      t = { s with
        sampleHi := t.sampleHi, sampleLo := t.sampleLo, raw12 := decodeSample t.sampleHi t.sampleLo
        err := degradedErr (bothOk (bothOk (s.result 0) (s.result 1)) (s.result 2)) s.err
        trace := s.trace ++
          ([.tw s.cfg.sa8 [0x01#8, s.cfg.cfgBase ||| s.cfg.sdMask ||| s.cfg.osMask] (s.result 0)] ++
            failureReport (s.result 0) .scReadTriggerTx ++ [.dly s.cfg.convDelayMs] ++
            [.tw s.cfg.sa8 [0x00#8] (s.result 1)] ++ failureReport (s.result 1) .scReadPointerTx ++
            [.tr s.cfg.sa8 2 (s.result 2) [(s.sample 0).1, (s.sample 0).2]] ++
            failureReport (s.result 2) .scReadRx ++
            degradedReport (bothOk (bothOk (s.result 0) (s.result 1)) (s.result 2)))
        busCalls := s.busCalls + 3, samples := s.samples + 1, sensor := t.sensor, draws := t.draws } ∧
      (s.result 2 = .ok → t.sampleHi = (s.sample 0).1 ∧ t.sampleLo = (s.sample 0).2)

/-! ## SEN rows -/

/-- 20_memory R80 to R83: the sensor's transfers, put on the bus by another master (log 18), change the sensor and nothing of
CORE or of the memory device. -/
def Obligations.SensorTransfersLeaveCoreAlone : Prop :=
  ∀ (s : State) (v : Byte), s.busy = false →
    (∃ t, exec .senReset s = .next t ∧
      t = { s with
        sensor := t.sensor, draws := t.draws, trace := s.trace ++ [.tw s.cfg.broadcastAddr8 [0x06#8] .ok] }) ∧
    (∃ t, exec (.senConfig v) s = .next t ∧
      t = { s with sensor := t.sensor, draws := t.draws, trace := s.trace ++ [.tw s.cfg.sa8 [0x01#8, v] .ok] }) ∧
    (∃ t, exec .senPointer s = .next t ∧
      t = { s with sensor := t.sensor, draws := t.draws, trace := s.trace ++ [.tw s.cfg.sa8 [0x00#8] .ok] }) ∧
    (∃ t, exec .senRead s = .next t ∧
      t = { s with
        sensor := t.sensor, draws := t.draws, samples := s.samples + 1
        trace := s.trace ++ [.tr s.cfg.sa8 2 .ok [(s.sample 0).1, (s.sample 0).2]] })

/-- 20_memory R81, R82, R63: what the sensor keeps of a configuration write, of a pointer write and of a read. -/
def Obligations.SensorTakesConfigurationAndPointer : Prop :=
  ∀ (s : State) (v : Byte), s.busy = false →
    (∃ t, exec (.senConfig v) s = .next t ∧ t.sensor.config = v ∧
      (v &&& s.cfg.sdMask ≠ 0#8 → v &&& s.cfg.osMask ≠ 0#8 → t.sensor.converting = true)) ∧
    (∃ t, exec .senPointer s = .next t ∧ t.sensor.pointer = 0x00#8 ∧ t.sensor.config = s.sensor.config) ∧
    (∃ t, exec .senRead s = .next t ∧ t.sensor.pointer = s.sensor.pointer ∧ t.sensor.config = s.sensor.config)

/-! ## DEV rows -/

/-- 20_memory R70 to R75: a frame changes the memory device and nothing of CORE or of the sensor, and the trace grows by
the events of its format; the device is not selected afterwards. DEV.WRDI and DEV.WRSR say nothing of the device state.
The frames are another master's (log 18). That a write-disable frame is its opcode alone is the shape 30_encoding R99 gives
it from general knowledge, and that a write-status frame carries any operand bytes is the model's choice (log 24). -/
def Obligations.DeviceFramesLeaveCoreAlone : Prop :=
  ∀ (s : State) (a : StorageAddr) (n : Nat) (d : List Byte), s.busy = false →
    let changes (i : Instr) (es : List Event) : Prop :=
      ∃ t, exec i s = .next t ∧ t.dev.selected = false ∧
        t = { s with dev := t.dev, programs := t.programs, draws := t.draws, trace := s.trace ++ es }
    (0 < n → ∃ bytes : List Byte, bytes.length = n ∧
      changes (.devRead a n) [.sel, .tx [0x03#8, addrHi a, addrLo a] .ok, .rx n .ok bytes, .des]) ∧
    changes (.devWrite a d) ([.sel, .tx (0x02#8 :: addrHi a :: addrLo a :: d) .ok, .des]) ∧
    changes .devWrdi ([.sel, .tx [0x04#8] .ok, .des]) ∧
    changes .devWren ([.sel, .tx [0x06#8] .ok, .des]) ∧
    (∃ b : Byte, changes .devRdsr [.sel, .tx [0x05#8] .ok, .rx 1 .ok [b], .des]) ∧
    changes (.devWrsr d) ([.sel, .tx (0x01#8 :: d) .ok, .des])

/-- 20_memory R70: with WIP = 0 and the range inside the device the bytes are MEM's, and no device state changes. -/
def Obligations.DevReadReturnsMemory : Prop :=
  ∀ (s : State) (a : StorageAddr) (n : Nat), s.busy = false → s.dev.wip = false → 1 ≤ n →
    a.toNat + n ≤ s.cfg.capacity →
    ∃ t bytes, exec (.devRead a n) s = .next t ∧ t.dev = { s.dev with selected := false } ∧
      t.trace = s.trace ++ [.sel, .tx [0x03#8, addrHi a, addrLo a] .ok, .rx n .ok bytes, .des] ∧
      bytes.length = n ∧ ∀ k, k < n → bytes[k]? = some (Memory.read (a.toNat + k) s.dev.mem)

/-- 20_memory R71: with WEL = 1 and WIP = 0 the bytes go to PEND, wrapping within the page, WIP is set and K_LEFT is the
environment's draw; MEM and the rest of PEND are as before. For at most PAGE_SIZE bytes; the page lies in the device. -/
def Obligations.DevWriteFillsPendingPage : Prop :=
  ∀ (s : State) (a : StorageAddr) (d : List Byte), s.busy = false → s.cfg.legal = true →
    s.cfg.pageSize ≤ s.cfg.capacity → s.dev.wel = true → s.dev.wip = false → Cells.rising s.dev.pend →
    a.toNat < s.cfg.capacity → d.length ≤ s.cfg.pageSize →
    let base := a.toNat - a.toNat % s.cfg.pageSize
    let target := fun k => base + (a.toNat % s.cfg.pageSize + k) % s.cfg.pageSize
    ∃ t, exec (.devWrite a d) s = .next t ∧
      t.dev = { s.dev with pend := t.dev.pend, wip := true, kLeft := s.cycle 0, selected := false } ∧
      (∀ k, k < d.length → Cells.get? (target k) t.dev.pend = d[k]?) ∧
      ∀ x, (∀ k, k < d.length → target k ≠ x) → Cells.get? x t.dev.pend = Cells.get? x s.dev.pend

/-- 20_memory R73: with WIP = 0 the latch is set and nothing else of the device changes. -/
def Obligations.DevWrenSetsLatch : Prop :=
  ∀ s : State, s.busy = false → s.dev.wip = false →
    ∃ t, exec .devWren s = .next t ∧ t.dev = { s.dev with wel := true, selected := false }

/-- 20_memory R74, R78: the three cases of a status read, and the commit of PEND into MEM. -/
def Obligations.DevRdsrReportsAndCommits : Prop :=
  ∀ s : State, s.busy = false → Memory.wf s.dev.mem → Cells.rising s.dev.pend →
    ∃ t b, exec .devRdsr s = .next t ∧
      t.trace = s.trace ++ [.sel, .tx [0x05#8] .ok, .rx 1 .ok [b], .des] ∧
      b.getLsbD 0 = t.dev.wip ∧
      (s.dev.wip = false → t.dev = { s.dev with selected := false }) ∧
      (s.dev.wip = true → s.dev.kLeft = .inf → t.dev = { s.dev with selected := false }) ∧
      (∀ k, s.dev.wip = true → s.dev.kLeft = .fin (k + 1) →
        t.dev = { s.dev with kLeft := .fin k, selected := false }) ∧
      (s.dev.wip = true → s.dev.kLeft = .fin 0 →
        t.dev = { s.dev with mem := t.dev.mem, pend := [], wip := false, wel := false, selected := false } ∧
        ∀ x, Memory.read x t.dev.mem = (Cells.get? x s.dev.pend).getD (Memory.read x s.dev.mem))

/-- 20_memory R76: while WIP = 1 a read, a program frame (WEL = 1) and a write-enable frame leave the operation in flight
its WIP and K_LEFT, and every byte of MEM outside the addressed page. That this is the page of the frame's first address,
for a read of more bytes than one page holds too, is the model's choice (log 13). -/
def Obligations.FramesWhileBusyTouchOnlyTheirPage : Prop :=
  ∀ (s : State) (a : StorageAddr) (n : Nat) (d : List Byte), s.busy = false → s.cfg.legal = true →
    s.cfg.pageSize ≤ s.cfg.capacity → Memory.wf s.dev.mem → s.dev.wip = true → a.toNat < s.cfg.capacity →
    let otherPagesKept (t : State) : Prop :=
      t.dev = { s.dev with mem := t.dev.mem, wel := t.dev.wel, pend := t.dev.pend, selected := false } ∧
        ∀ x, x / s.cfg.pageSize ≠ a.toNat / s.cfg.pageSize → Memory.read x t.dev.mem = Memory.read x s.dev.mem
    (∃ t, exec (.devRead a n) s = .next t ∧ otherPagesKept t) ∧
    (s.dev.wel = true → ∃ t, exec (.devWrite a d) s = .next t ∧ otherPagesKept t) ∧
    (∃ t, exec .devWren s = .next t ∧
      t.dev = { s.dev with wel := t.dev.wel, pend := t.dev.pend, selected := false })

/-! ## MW -/

/-- 41_memory_write_engine R140: the frame, the report of a failure before the deselect, the latch; the rest of the device
as before when WIP = 0. -/
def Obligations.MwWrenSendsOneFrame : Prop :=
  ∀ s : State, s.busy = false →
    ∃ t, exec .mwWren s = .next t ∧
      t = { s with
        err := busFail (s.result 0) s.err
        trace := s.trace ++
          ([.sel, .tx [0x06#8] (s.result 0)] ++ failureReport (s.result 0) .mwWrenTx ++ [.des])
        busCalls := s.busCalls + 1, dev := t.dev, programs := t.programs, draws := t.draws } ∧
      (s.dev.wip = false → t.dev = { s.dev with wel := t.dev.wel, selected := false }) ∧
      (s.dev.wip = false → s.result 0 = .ok → t.dev.wel = true)

/-- 41_memory_write_engine R143: the two checks, in order, before any bus activity; operands that pass both are not
refused: the write-enable frame is selected next. -/
def Obligations.PageWriteChecksBeforeTheBus : Prop :=
  ∀ (s : State) (a : StorageAddr) (len : Nat) (d : List Byte), s.busy = false →
    (len = 0 ∨ s.cfg.capacity < a.toNat + len →
      exec (.mwPageWrite a len d) s = .next { s with
        err := s.err ||| 0b10000#5, trace := s.trace ++ [.rpt (.cause .commandRefused) .cmdCheck] }) ∧
    (¬(len = 0 ∨ s.cfg.capacity < a.toNat + len) → s.cfg.pageSize < a.toNat % s.cfg.pageSize + len →
      exec (.mwPageWrite a len d) s = .next { s with
        err := s.err ||| 0b00100#5, trace := s.trace ++ [.rpt (.cause .boundaryHazard) .mwPageWriteCheck] }) ∧
    (¬(len = 0 ∨ s.cfg.capacity < a.toNat + len) → ¬ s.cfg.pageSize < a.toNat % s.cfg.pageSize + len →
      ∃ t es, exec (.mwPageWrite a len d) s = .next t ∧
        t.trace = s.trace ++ [.sel, .tx [0x06#8] (s.result 0)] ++ es)

/-- 41_memory_write_engine R144, R147: one write-enable frame directly before one program frame, whatever fails; what the
step sends after them transmits read-status only. Every register but those of the write engine and ERR is unchanged; BUS_FAIL
is set where one of the two frames failed, and ERR changes by BUS_FAIL only, for them and for the first status frame
(60_exceptions R191; one pass of the poll is one step, log 1). -/
def Obligations.PageWriteSendsEnableThenProgram : Prop :=
  ∀ (s : State) (a : StorageAddr) (len : Nat) (d : List Byte), s.busy = false →
    1 ≤ len → a.toNat + len ≤ s.cfg.capacity → a.toNat % s.cfg.pageSize + len ≤ s.cfg.pageSize → d.length = len →
    ∃ t es, exec (.mwPageWrite a len d) s = .next t ∧
      t = { s with
        mwState := t.mwState, pollCnt := t.pollCnt, statusByte := t.statusByte, err := t.err, dev := t.dev
        busCalls := t.busCalls, programs := t.programs, draws := t.draws
        trace := s.trace ++
          ([.sel, .tx [0x06#8] (s.result 0)] ++ failureReport (s.result 0) .mwWrenTx ++ [.des] ++
            [.sel, .tx (0x02#8 :: addrHi a :: addrLo a :: d) (s.result 1)] ++
            failureReport (s.result 1) .mwProgramTx ++ [.des] ++ es) } ∧
      (∀ e ∈ es, e.transmitsCommand = false) ∧
      (bothOk (s.result 0) (s.result 1) = .failed → t.err.getLsbD 0 = true) ∧
      (s.cfg.legal = true →
        t.err = busFail (bothOk (bothOk (s.result 0) (s.result 1)) (bothOk (s.result 2) (s.result 3))) s.err)

/-- 41_memory_write_engine R141 on the success path, the device ready at the first status read: the operation is over in
one step, the bytes stand in MEM, every other byte is as before. -/
def Obligations.PageWriteCompletes : Prop :=
  ∀ (s : State) (a : StorageAddr) (len : Nat) (d : List Byte), s.busy = false → s.cfg.legal = true →
    1 ≤ len → a.toNat + len ≤ s.cfg.capacity → a.toNat % s.cfg.pageSize + len ≤ s.cfg.pageSize → d.length = len →
    s.dev.wip = false → s.dev.pend = [] → Memory.wf s.dev.mem → s.okFor 4 → s.cycle 0 = .fin 0 →
    ∃ t, exec (.mwPageWrite a len d) s = .next t ∧
      t = { s with
        pollCnt := 1, statusByte := t.statusByte, dev := t.dev, busCalls := s.busCalls + 4
        programs := s.programs + 1, draws := t.draws
        trace := s.trace ++
          [.sel, .tx [0x06#8] .ok, .des, .sel, .tx (0x02#8 :: addrHi a :: addrLo a :: d) .ok, .des,
            .sel, .tx [0x05#8] .ok, .rx 1 .ok [t.statusByte], .des] } ∧
      t.statusByte.getLsbD 0 = false ∧
      t.dev = { s.dev with mem := t.dev.mem, wel := false, kLeft := .fin 0, selected := false } ∧
      ∀ x, Memory.read x t.dev.mem =
        if a.toNat ≤ x ∧ x < a.toNat + len then d.getD (x - a.toNat) 0#8 else Memory.read x s.dev.mem

/-- 20_memory R77: a program frame in which the transmit failed, after a complete write-enable frame, leaves every byte
outside the addressed page as it was (log 11: what it leaves of that page), and the poll goes on as if it were in flight. -/
def Obligations.FailedProgramFrameSparesOtherPages : Prop :=
  ∀ (s : State) (a : StorageAddr) (len : Nat) (d : List Byte), s.busy = false → Memory.wf s.dev.mem →
    1 ≤ len → a.toNat + len ≤ s.cfg.capacity → a.toNat % s.cfg.pageSize + len ≤ s.cfg.pageSize → d.length = len →
    s.dev.wip = false → s.result 0 = .ok → s.result 1 = .failed →
    ∃ t, exec (.mwPageWrite a len d) s = .next t ∧ t.err.getLsbD 0 = true ∧
      ∀ x, x / s.cfg.pageSize ≠ a.toNat / s.cfg.pageSize → Memory.read x t.dev.mem = Memory.read x s.dev.mem

/-- 41_memory_write_engine R142, R149 (one pass is one step, log 1): what the first pass of MW.WAITRDY does in every
state: one status frame, counted; a status byte is taken, and the wait ended or not by its bit 0, only where both
primitives returned `Ok`; MEM changes only where the device ends its program operation (20_memory R78). -/
def Obligations.WaitRdyFirstPass : Prop :=
  ∀ s : State, s.busy = false → s.cfg.legal = true → Memory.wf s.dev.mem → Cells.rising s.dev.pend →
    ∃ t b, exec .mwWaitRdy s = .next t ∧
      t = { s with
        mwState := t.mwState, pollCnt := 1, statusByte := t.statusByte, dev := t.dev, busCalls := s.busCalls + 2
        draws := t.draws, err := busFail (bothOk (s.result 0) (s.result 1)) s.err
        trace := s.trace ++
          ([.sel, .tx [0x05#8] (s.result 0)] ++ failureReport (s.result 0) .mwPollTx ++ [.rx 1 (s.result 1) [b]] ++
            failureReport (s.result 1) .mwPollRx ++ [.des]) } ∧
      (bothOk (s.result 0) (s.result 1) = .ok →
        t.statusByte = b ∧ b.getLsbD 0 = t.dev.wip ∧ t.mwState = if t.dev.wip then .poll else .idle) ∧
      (bothOk (s.result 0) (s.result 1) = .failed →
        t.statusByte = s.statusByte ∧ t.mwState = .poll ∧ t.dev = { s.dev with selected := false }) ∧
      ∀ x, Memory.read x t.dev.mem =
        if s.dev.wip = true ∧ t.dev.wip = false then (Cells.get? x s.dev.pend).getD (Memory.read x s.dev.mem)
        else Memory.read x s.dev.mem

/-- 41_memory_write_engine R142: issued when the device is ready it sends exactly one status frame. -/
def Obligations.WaitRdyCompletesWhenReady : Prop :=
  ∀ s : State, s.busy = false → s.cfg.legal = true → s.dev.wip = false → s.okFor 2 →
    ∃ t, exec .mwWaitRdy s = .next t ∧
      t = { s with
        pollCnt := 1, statusByte := t.statusByte, dev := { s.dev with selected := false }
        busCalls := s.busCalls + 2, draws := t.draws
        trace := s.trace ++ [.sel, .tx [0x05#8] .ok, .rx 1 .ok [t.statusByte], .des] } ∧
      t.statusByte.getLsbD 0 = false

/-- 41_memory_write_engine R148: a device that reports WIP set for k polls then clear sees exactly k + 1 status reads,
when every primitive returns `Ok` and k + 1 is within POLL_LIMIT; when it is not, POLL_LIMIT reads, the last of which saw
WIP = 1, and WriteTimedOut. One status read is one step (log 1). -/
def Obligations.WaitRdyIssuesOneMoreReadThanBusy : Prop :=
  ∀ (s : State) (k : Nat), s.busy = false → s.dev.wip = true → s.dev.kLeft = .fin k →
    (pollAdmits s.cfg (k + 1) = true → s.okFor (2 * (k + 1)) →
      ∃ s1 t, exec .mwWaitRdy s = .next s1 ∧ core.run k s1 = .next t ∧
        t.busy = false ∧ t.pollCnt = k + 1 ∧ t.statusByte.getLsbD 0 = false ∧ t.err = s.err ∧
        t.dev.wip = false ∧ t.dev.wel = false ∧
        t.trace.countP Event.isStatusRead = s.trace.countP Event.isStatusRead + (k + 1)) ∧
    (∀ l, s.cfg.pollLimit = .fin l → 0 < l → l < k + 1 → s.okFor (2 * l) →
      ∃ s1 t, exec .mwWaitRdy s = .next s1 ∧ core.run l s1 = .next t ∧
        t.busy = false ∧ t.pollCnt = l ∧ t.statusByte.getLsbD 0 = true ∧ t.err = s.err ||| 0b01000#5 ∧
        t.dev = { s.dev with kLeft := .fin (k - l), selected := false } ∧
        t.trace.getLast? = some (.rpt (.cause .writeTimedOut) .mwPollLimit) ∧
        t.trace.countP Event.isStatusRead = s.trace.countP Event.isStatusRead + l)

/-- 41_memory_write_engine R145, 60_exceptions R194: with POLL_LIMIT = l, and either a device that never clears WIP, whatever
the bus answers, or a bus on which every status frame fails, whatever the device, MW.WAITRDY sends l status frames, raises
WriteTimedOut and returns (one pass is one step, log 1). -/
def Obligations.WaitRdyTimesOut : Prop :=
  ∀ (s : State) (l : Nat), s.busy = false → s.cfg.pollLimit = .fin l → 0 < l →
    s.dev.neverReady = true ∨ s.pollFailsFor l →
    ∃ s1 t, exec .mwWaitRdy s = .next s1 ∧ core.run l s1 = .next t ∧
      t.busy = false ∧ t.pollCnt = l ∧ t.err.getLsbD 3 = true ∧ t.dev = { s.dev with selected := false } ∧
      t.trace.getLast? = some (.rpt (.cause .writeTimedOut) .mwPollLimit) ∧
      t.trace.countP Event.isStatusRead = s.trace.countP Event.isStatusRead + l

/-- 70_reset R230: with POLL_LIMIT = INF, and either a device that never clears WIP, whatever the bus answers, or a bus on which
every status frame fails, whatever the device, a poll goes on for ever: BUSY stays 1, DONE and LO_STATE do not move, POLL_CNT
grows (one pass is one step, log 1). -/
def Obligations.UnboundedPollHangs : Prop :=
  ∀ (s : State) (n : Nat), s.polling = true → s.cfg.pollLimit = .inf →
    s.dev.neverReady = true ∨ s.pollFailsFor n →
    ∃ t, core.run n s = .next t ∧ t.busy = true ∧ t.done = s.done ∧ t.loState = s.loState ∧
      t.logAddr = s.logAddr ∧ t.pollCnt = s.pollCnt + n ∧ t.dev.mem = s.dev.mem

/-- 41_memory_write_engine R149: a status frame in which a primitive failed is counted, each failure is reported, and it
observes nothing: the poll goes on, STATUS_BYTE and the device are as before. That a step in a poll is one status frame is
the model's granularity (log 1). -/
def Obligations.FailedStatusFrameObservesNothing : Prop :=
  ∀ s : State, s.polling = true → s.cfg.pollLimit ≠ .fin s.pollCnt → bothOk (s.result 0) (s.result 1) = .failed →
    ∃ t b, step s = .next t ∧
      t = { s with
        pollCnt := s.pollCnt + 1, err := s.err ||| 0b00001#5, busCalls := s.busCalls + 2, draws := t.draws
        dev := { s.dev with selected := false }
        trace := s.trace ++
          ([.sel, .tx [0x05#8] (s.result 0)] ++ failureReport (s.result 0) .mwPollTx ++ [.rx 1 (s.result 1) [b]] ++
            failureReport (s.result 1) .mwPollRx ++ [.des]) }

/-! ## MR -/

/-- 42_memory_read_engine R161: the check, before any bus activity; operands that pass it are not refused: the device is
selected next. -/
def Obligations.MrReadChecksBeforeTheBus : Prop :=
  ∀ (s : State) (a : StorageAddr) (len : Nat), s.busy = false →
    (len = 0 ∨ s.cfg.capacity < a.toNat + len →
      exec (.mrRead a len) s = .next { s with
        err := s.err ||| 0b10000#5, trace := s.trace ++ [.rpt (.cause .commandRefused) .cmdCheck] }) ∧
    (¬(len = 0 ∨ s.cfg.capacity < a.toNat + len) →
      ∃ t es, exec (.mrRead a len) s = .next t ∧
        t.trace = s.trace ++ [.sel, .tx [0x03#8, addrHi a, addrLo a] (s.result 0)] ++ es)

/-- 42_memory_read_engine R160, R162: with every primitive `Ok` and WIP = 0, RDATA[i] = MEM[addr+i], nothing else of the
device changes. -/
def Obligations.MrReadReturnsMemory : Prop :=
  ∀ (s : State) (a : StorageAddr) (len : Nat), s.busy = false → 1 ≤ len → a.toNat + len ≤ s.cfg.capacity →
    s.dev.wip = false → s.okFor 2 →
    ∃ t, exec (.mrRead a len) s = .next t ∧
      t = { s with
        rdata := t.rdata, dev := { s.dev with selected := false }, busCalls := s.busCalls + 2, draws := t.draws
        trace := s.trace ++ [.sel, .tx [0x03#8, addrHi a, addrLo a] .ok, .rx len .ok t.rdata, .des] } ∧
      t.rdata.length = len ∧ ∀ k, k < len → t.rdata[k]? = some (Memory.read (a.toNat + k) s.dev.mem)

/-- 42_memory_read_engine R160, R164: a failed primitive skips nothing, each failure is reported before the next event,
RDATA takes len bytes, the device state is as before (20_memory R77). The bytes in the receive's event are draws (log 26). -/
def Obligations.MrReadFailureSkipsNothing : Prop :=
  ∀ (s : State) (a : StorageAddr) (len : Nat), s.busy = false → 1 ≤ len → a.toNat + len ≤ s.cfg.capacity →
    bothOk (s.result 0) (s.result 1) = .failed →
    ∃ t bytes, exec (.mrRead a len) s = .next t ∧
      t = { s with
        rdata := t.rdata, err := s.err ||| 0b00001#5, dev := { s.dev with selected := false }
        busCalls := s.busCalls + 2, draws := t.draws
        trace := s.trace ++
          ([.sel, .tx [0x03#8, addrHi a, addrLo a] (s.result 0)] ++ failureReport (s.result 0) .mrReadTx ++
            [.rx len (s.result 1) bytes] ++ failureReport (s.result 1) .mrReadRx ++ [.des]) } ∧
      t.rdata.length = len ∧ bytes.length = len

/-! ## The law the two memory engines obey together -/

/-- 20_memory R87: what MW.PAGEWRITE wrote, MR.READ returns; every other byte of MEM is unchanged, WIP = 0, WEL = 0. PEND
is empty where WIP = 0 in every state the invariant admits, which is the model's inference (log 14). One status read is one
step (log 1). -/
def Obligations.WriteThenReadRoundTrip : Prop :=
  ∀ (s : State) (a : StorageAddr) (len k : Nat) (d : List Byte), s.busy = false → Inv s →
    1 ≤ len → a.toNat + len ≤ s.cfg.capacity → a.toNat % s.cfg.pageSize + len ≤ s.cfg.pageSize → d.length = len →
    s.dev.wip = false → s.cycle 0 = .fin k → pollAdmits s.cfg (k + 1) = true → s.okFor (2 * k + 6) →
    ∃ s1 t u, exec (.mwPageWrite a len d) s = .next s1 ∧ core.run k s1 = .next t ∧ t.busy = false ∧
      (∀ x, Memory.read x t.dev.mem =
        if a.toNat ≤ x ∧ x < a.toNat + len then d.getD (x - a.toNat) 0#8 else Memory.read x s.dev.mem) ∧
      t.dev.wip = false ∧ t.dev.wel = false ∧ t.err = s.err ∧
      exec (.mrRead a len) t = .next u ∧ u.rdata = d

/-! ## LO -/

/-- 43_logging_orchestrator R178: LO.RUN is accepted in LO_IDLE; in LO_DONE it is refused and DONE stays, and no step but the
hardware reset leaves LO_DONE; every other instruction is accepted in both. That an accepted LO.RUN first drives the
indicator to 0 and enters LO_RESETTING is R170, R171, R174; that its exec ends there, the moves that follow being steps, is
the model's granularity (log 1). The frames of the DEV and SEN rows are another master's (log 18). -/
def Obligations.LoRunAcceptedOnlyInIdle : Prop :=
  ∀ s : State, s.busy = false →
    (s.loState = .idle →
      exec .loRun s = .next { s with done := false, loState := .resetting, trace := s.trace ++ [.ind false] }) ∧
    (s.loState = .done →
      exec .loRun s = .next { s with
        err := s.err ||| 0b10000#5, trace := s.trace ++ [.rpt (.cause .commandRefused) .cmdCheck] }) ∧
    (s.loState = .idle ∨ s.loState = .done) ∧
    (s.loState = .done → s.resetNext = false → ∀ t, step s = .next t → t.loState = .done) ∧
    ∀ i : Instr, i ≠ .loRun → ∃ t, exec i s = .next t

/-- 43_logging_orchestrator R171: the moves of the orchestrator other than those out of LO_PERSIST, one step each (log 1). No
move depends on a BusResult or on ERR. The SC operation of a move does what it does when the host issues it (30_encoding
R114): in LO_ACQUIRE the events, reports, ERR bits and registers are those of 40_sensor_controller R122, R127, R128, R130
(the bytes in a failed read's event: log 25). -/
def Obligations.OrchestratorSequence : Prop :=
  ∀ s : State, s.scState = .idle → s.mwState = .idle → s.mrState = .idle →
    (s.loState = .resetting → ∃ t, step s = .next t ∧
      t = { s with
        loState := .configuring, err := busFail (s.result 0) s.err, sensor := t.sensor, draws := t.draws
        busCalls := s.busCalls + 1
        trace := s.trace ++
          [.tw s.cfg.broadcastAddr8 [0x06#8] (s.result 0), .rpt (resultKind (s.result 0)) .scResetTx] }) ∧
    (s.loState = .configuring → ∃ t, step s = .next t ∧
      t = { s with
        loState := .acquire, logAddr := 0#16, err := busFail (s.result 0) s.err, sensor := t.sensor
        draws := t.draws, busCalls := s.busCalls + 1
        trace := s.trace ++
          [.tw s.cfg.sa8 [0x01#8, s.cfg.cfgBase ||| s.cfg.sdMask] (s.result 0),
            .rpt (resultKind (s.result 0)) .scConfigTx] }) ∧
    (s.loState = .acquire → ∃ t, step s = .next t ∧
      t = { s with
        loState := .persist, sampleHi := t.sampleHi, sampleLo := t.sampleLo
        raw12 := decodeSample t.sampleHi t.sampleLo
        err := degradedErr (bothOk (bothOk (s.result 0) (s.result 1)) (s.result 2)) s.err
        trace := s.trace ++
          ([.tw s.cfg.sa8 [0x01#8, s.cfg.cfgBase ||| s.cfg.sdMask ||| s.cfg.osMask] (s.result 0)] ++
            failureReport (s.result 0) .scReadTriggerTx ++ [.dly s.cfg.convDelayMs] ++
            [.tw s.cfg.sa8 [0x00#8] (s.result 1)] ++ failureReport (s.result 1) .scReadPointerTx ++
            [.tr s.cfg.sa8 2 (s.result 2) [(s.sample 0).1, (s.sample 0).2]] ++
            failureReport (s.result 2) .scReadRx ++
            degradedReport (bothOk (bothOk (s.result 0) (s.result 1)) (s.result 2)))
        busCalls := s.busCalls + 3, samples := s.samples + 1, sensor := t.sensor, draws := t.draws } ∧
      (s.result 2 = .ok → t.sampleHi = (s.sample 0).1 ∧ t.sampleLo = (s.sample 0).2)) ∧
    (s.loState = .pace → step s = .next { s with
      loState := .acquire, logAddr := s.logAddr + 2#16, trace := s.trace ++ [.dly s.cfg.periodMs] })

/-- 43_logging_orchestrator R171, R173, R174: LO_PERSIST is left when the write has returned, to LO_PACE exactly when
LOG_ADDR + 2 < CAPACITY, else to LO_DONE with SetDone(1) as the last event; until then LO_STATE and DONE stay. R170, 30_encoding
R106, 41_memory_write_engine R144: the step that begins the write of a slot sends the write-enable frame and then the
program frame with LOG_ADDR, SAMPLE_HI and SAMPLE_LO, whatever the BusResults, and sets BUS_FAIL where one of them or the first
status frame failed (60_exceptions R191); a step of its poll transmits read-status only (one pass is one step, log 1). No other register of CORE and not the sensor changes. -/
def Obligations.PersistLeadsToPaceOrDone : Prop :=
  ∀ s : State, s.scState = .idle → s.mrState = .idle → s.mwState = .idle ∨ s.mwState = .poll →
    s.loState = .persist →
    ∃ t es, step s = .next t ∧
      t = { s with
        loState := t.loState, done := t.done, mwState := t.mwState, pollCnt := t.pollCnt, statusByte := t.statusByte
        err := t.err, dev := t.dev, busCalls := t.busCalls, programs := t.programs, draws := t.draws
        trace := s.trace ++ es } ∧
      (t.mwState = .poll ∧ t.loState = .persist ∧ t.done = s.done ∨
        t.mwState = .idle ∧ s.logAddr.toNat + 2 < s.cfg.capacity ∧ t.loState = .pace ∧ t.done = s.done ∨
        t.mwState = .idle ∧ s.cfg.capacity ≤ s.logAddr.toNat + 2 ∧ t.loState = .done ∧ t.done = true ∧
          t.trace.getLast? = some (.ind true)) ∧
      (s.mwState = .poll → ∀ e ∈ es, e.transmitsCommand = false) ∧
      (s.mwState = .idle → s.cfg.legal = true → s.logAddr.toNat % 2 = 0 → s.logAddr.toNat + 2 ≤ s.cfg.capacity →
        ∃ rest : List Event,
          es = [.sel, .tx [0x06#8] (s.result 0)] ++ failureReport (s.result 0) .mwWrenTx ++ [.des] ++
            [.sel, .tx [0x02#8, addrHi s.logAddr, addrLo s.logAddr, s.sampleHi, s.sampleLo] (s.result 1)] ++
            failureReport (s.result 1) .mwProgramTx ++ [.des] ++ rest ∧
          (∀ e ∈ rest, e.transmitsCommand = false) ∧
          t.err = busFail (bothOk (bothOk (s.result 0) (s.result 1)) (bothOk (s.result 2) (s.result 3))) s.err)

/-- 43_logging_orchestrator R172, R179, from 00_scope R8 and 41_memory_write_engine R143 (an inference of the spec's own): the
write of every slot passes both checks, and a step of a running orchestrator leaves the bits BOUNDARY_HAZARD and CMD_REFUSED
of ERR as they were. That such a step reports neither cause is not said here. -/
def Obligations.SlotWritesPassBothChecks : Prop :=
  (∀ (p : Params) (a : StorageAddr), p.legal = true → a.toNat % 2 = 0 → a.toNat + 2 ≤ p.capacity →
    a.toNat % p.pageSize ≤ p.pageSize - 2 ∧ a.toNat % p.pageSize + 2 ≤ p.pageSize ∧
      inRange p a 2 = true ∧ inPage p a 2 = true) ∧
  ∀ s t : State, Inv s → s.loState.running = true → step s = .next t →
    s.logAddr.toNat % 2 = 0 ∧ s.logAddr.toNat + 2 ≤ s.cfg.capacity ∧
      t.err.getLsbD 2 = s.err.getLsbD 2 ∧ t.err.getLsbD 4 = s.err.getLsbD 4

/-- 43_logging_orchestrator R175, R177, R183: with POLL_LIMIT finite LO.RUN always ends in LO_DONE with DONE = 1 and
LOG_ADDR = CAPACITY-2 (R172), after exactly CAPACITY/2 temperature reads, whatever the bus results and the device. The run
is some number of steps, one per move or status frame (log 1). Its liveness premises (70_reset R237): every bus primitive
returns and every Delay returns, which State.result and delay build in (log 30), and POLL_LIMIT is finite. -/
def Obligations.LoRunAlwaysReachesDone : Prop :=
  ∀ (s : State) (l : Nat), s.busy = false → Inv s → s.loState = .idle → s.cfg.pollLimit = .fin l →
    ∃ s1 n t, exec .loRun s = .next s1 ∧ core.run n s1 = .next t ∧
      t.loState = .done ∧ t.done = true ∧ t.busy = false ∧ t.logAddr.toNat + 2 = s.cfg.capacity ∧
      t.samples = s.samples + s.cfg.capacity / 2

/-- 43_logging_orchestrator R176: when every primitive returns `Ok` and every K_LEFT drawn is smaller than POLL_LIMIT, MEM
holds at 2i and 2i+1 the two bytes the i-th temperature read returned, for every i, ERR is unchanged and DONE = 1. The run
is some number of steps, one per move or status frame (log 1). Its liveness premises (70_reset R237): every bus primitive
returns and every Delay returns, which State.result and delay build in (log 30), every K_LEFT is finite and no status frame
fails. What a complete run sends is CompleteRunTransmits. -/
def Obligations.LoRunLogsEverySample : Prop :=
  ∀ s : State, s.busy = false → Inv s → s.loState = .idle → s.dev.wip = false →
    (∀ i, i < s.cfg.capacity / 2 → ∃ k, s.cycle i = .fin k ∧ pollAdmits s.cfg (k + 1) = true) →
    s.okFor (s.runCalls (s.cfg.capacity / 2)) →
    ∃ s1 n t, exec .loRun s = .next s1 ∧ core.run n s1 = .next t ∧
      t.loState = .done ∧ t.done = true ∧ t.busy = false ∧ t.err = s.err ∧
      ∀ i, i < s.cfg.capacity / 2 →
        Memory.read (2 * i) t.dev.mem = (s.sample i).1 ∧ Memory.read (2 * i + 1) t.dev.mem = (s.sample i).2

/-! ## The whole machine -/

/-- 10_state R42 and the launch premises P2 to P5 of 70_reset R222: what State.reset holds wherever R42 gives a value. -/
def Obligations.ResetLeavesTheStatedValues : Prop :=
  State.reset.launched ∧
    State.reset.scState = .idle ∧ State.reset.mwState = .idle ∧ State.reset.mrState = .idle ∧
    State.reset.loState = .idle ∧ State.reset.logAddr = 0#16 ∧ State.reset.done = false ∧ State.reset.err = 0#5 ∧
    State.reset.pollCnt = 0 ∧ State.reset.rdata = [] ∧ State.reset.dev.kLeft = .fin 0 ∧ State.reset.trace = []

/-- The invariant of Safety.lean holds right after reset. -/
def Obligations.ResetMeetsInvariant : Prop := Inv State.reset

/-- Every step keeps it. Two of its clauses are the model's: PEND is empty wherever WIP = 0, after a frame of which 20_memory
R71 says nothing may be relied on too (log 14); and between steps every engine but the orchestrator is at rest or polling,
which is the size of a step (log 1, log 20). -/
def Obligations.StepKeepsInvariant : Prop :=
  ∀ s t : State, Inv s → step s = .next t → Inv t

/-- From a state that meets the invariant no step faults (log 20), and only a malformed command is refused (log 4). -/
def Obligations.StepNeverFaults : Prop :=
  ∀ s : State, Inv s →
    (∀ f, step s ≠ .fault f) ∧
    ∀ r, step s = .refused r → r = .malformedCommand ∧
      ∃ op a n d why, s.requests.head? = some (.command op a n d) ∧ decode s.cfg (.command op a n d) = .rejected why

/-- 10_state R33, 60_exceptions R200: the bits of ERR are sticky; only the hardware reset clears them. -/
def Obligations.ErrBitsAreSticky : Prop :=
  ∀ s t : State, step s = .next t → s.resetNext = false → s.err &&& t.err = s.err

/-- 10_state R33: no operation reads ERR: with more bits set every step does the same and keeps them. -/
def Obligations.ErrNeverChangesWhatCoreDoes : Prop :=
  ∀ (s t : State) (e : BitVec 5), s.resetNext = false → step s = .next t →
    step { s with err := s.err ||| e } = .next { t with err := t.err ||| e }

/-- 00_scope R6, R18: no step changes a parameter or the environment's script, and the trace only grows. -/
def Obligations.ParametersFixedTraceGrows : Prop :=
  ∀ s t : State, step s = .next t → t.cfg = s.cfg ∧ t.script = s.script ∧ ∃ es, t.trace = s.trace ++ es

/-- 43_logging_orchestrator R184, 60_exceptions R204: the instructions of the sensor bus leave the memory device alone, those
of the memory bus leave the sensor alone, and none but LO.RUN touches DONE, LO_STATE or LOG_ADDR. -/
def Obligations.EachBusHasOneOwner : Prop :=
  ∀ (s t : State) (i : Instr), exec i s = .next t →
    (i ∈ [.scReset, .scConfig, .scRead, .senReset, .senPointer, .senRead] ∨ (∃ v, i = .senConfig v) →
      t.dev = s.dev ∧ t.programs = s.programs) ∧
    (i ∈ [.mwWren, .mwWaitRdy, .devWrdi, .devWren, .devRdsr] ∨ (∃ a n d, i = .mwPageWrite a n d) ∨
        (∃ a n, i = .mrRead a n) ∨ (∃ a n, i = .devRead a n) ∨ (∃ a d, i = .devWrite a d) ∨ (∃ d, i = .devWrsr d) →
      t.sensor = s.sensor ∧ t.samples = s.samples) ∧
    (i ≠ .loRun → t.done = s.done ∧ t.loState = s.loState ∧ t.logAddr = s.logAddr)

/-- 10_state R31, 43_logging_orchestrator R172: LOG_ADDR moves only by LO_CONFIGURING (to 0), by LO_PACE (by exactly 2, never
wrapping) and by the hardware reset. -/
def Obligations.LogAddrAdvancesByTwo : Prop :=
  ∀ s t : State, Inv s → step s = .next t → t.logAddr ≠ s.logAddr →
    (s.loState = .configuring ∧ t.logAddr = 0#16) ∨
    (s.loState = .pace ∧ t.logAddr.toNat = s.logAddr.toNat + 2) ∨
    (s.resetNext = true ∧ t.logAddr = 0#16)

/-! ## What a complete run sends -/

/-- 43_logging_orchestrator R170, R173, R176, R177: what a complete LO.RUN sends but the read-status frames of its polls, in
order, whatever POLL_LIMIT, the bus results and the devices: IND(0); the reset and the shutdown configuration; for each of
the CAPACITY/2 slots the one-shot trigger, the conversion delay, the pointer, one temperature read, one write-enable frame
and then one program frame with the address bytes of 2i and two data bytes, which are the two bytes read where that read
returned `Ok`, and the pacing delay after every slot but the last; IND(1). Read-status frames, reports, answers and the
device-select line are left out of the list, so that no read-status frame stands between the two frames of a slot is not
said here: PersistLeadsToPaceOrDone says it. The complete run is the steps from LO.RUN to the first state with BUSY = 0
(log 1). -/
def Obligations.CompleteRunTransmits : Prop :=
  ∀ (s s1 t : State) (n : Nat), s.busy = false → Inv s → s.loState = .idle → exec .loRun s = .next s1 →
    core.run n s1 = .next t → t.busy = false →
    (∀ (m : Nat) (u : State), m < n → core.run m s1 = .next u → u.busy = true) →
    ∃ (es : List Event) (r : Nat → BusResult) (d : Nat → Byte × Byte),
      t.trace = s.trace ++ es ∧ es.head? = some (.ind false) ∧ es.getLast? = some (.ind true) ∧
      es.filterMap Event.action? =
        [.indicate false, .sensorWrite s.cfg.broadcastAddr8 [0x06#8],
          .sensorWrite s.cfg.sa8 [0x01#8, s.cfg.cfgBase ||| s.cfg.sdMask]] ++
        (List.range (s.cfg.capacity / 2)).flatMap (fun i => slotActions s.cfg i (r i) (d i)) ++ [.indicate true] ∧
      ∀ i, i < s.cfg.capacity / 2 → r i = .ok → d i = s.sample i

/-! ## Every pass of a poll -/

/-- 41_memory_write_engine R142, R145: a pass of the poll from any state in which it runs. At the limit no frame is sent and
WriteTimedOut is raised, whatever the device; below it, with both primitives `Ok`, STATUS_BYTE is the byte received and the
poll ends exactly when its bit 0 is 0, MEM changing only where the device ends its program operation (20_memory R78). When
the poll ends inside LO.RUN the orchestrator moves on (43_logging_orchestrator R171, R173, R174), in the same step; that a
pass is a step is the model's granularity (log 1). A frame with a failure is FailedStatusFrameObservesNothing. -/
def Obligations.PollEndsOnStatusByteOrLimit : Prop :=
  ∀ s : State, s.polling = true →
    (s.cfg.pollLimit = .fin s.pollCnt →
      step s = .next { s with
        mwState := .idle, err := s.err ||| 0b01000#5, loState := s.afterWrite.1, done := s.afterWrite.2.1
        trace := s.trace ++ [.rpt (.cause .writeTimedOut) .mwPollLimit] ++ s.afterWrite.2.2 }) ∧
    (s.cfg.pollLimit ≠ .fin s.pollCnt → bothOk (s.result 0) (s.result 1) = .ok →
      ∃ t b, step s = .next t ∧ b.getLsbD 0 = t.dev.wip ∧
        t = { s with
          pollCnt := s.pollCnt + 1, statusByte := b, dev := t.dev, busCalls := s.busCalls + 2, draws := t.draws
          mwState := if b.getLsbD 0 then .poll else .idle
          loState := if b.getLsbD 0 then s.loState else s.afterWrite.1
          done := if b.getLsbD 0 then s.done else s.afterWrite.2.1
          trace := s.trace ++ [.sel, .tx [0x05#8] .ok, .rx 1 .ok [b], .des] ++
            if b.getLsbD 0 then [] else s.afterWrite.2.2 } ∧
        (s.dev.wip = false → t.dev = { s.dev with selected := false }) ∧
        (Memory.wf s.dev.mem → Cells.rising s.dev.pend → ∀ x, Memory.read x t.dev.mem =
          if s.dev.wip = true ∧ t.dev.wip = false then (Cells.get? x s.dev.pend).getD (Memory.read x s.dev.mem)
          else Memory.read x s.dev.mem))

/-! ## A read while a program operation is in flight -/

/-- 42_memory_read_engine R160, 20_memory R76: MR.READ with both primitives `Ok` while WIP = 1 takes len bytes, of which
nothing is said, and changes nothing else of CORE; of the device WEL, PEND and the addressed page may change. That the
addressed page is the page of the first address, for a read of more bytes than one page holds too, and that WIP and K_LEFT
stay, is the model's choice (log 13). -/
def Obligations.MrReadWhileProgramInFlight : Prop :=
  ∀ (s : State) (a : StorageAddr) (len : Nat), s.busy = false → 1 ≤ len → a.toNat + len ≤ s.cfg.capacity →
    s.dev.wip = true → Memory.wf s.dev.mem → s.okFor 2 →
    ∃ t, exec (.mrRead a len) s = .next t ∧
      t = { s with
        rdata := t.rdata, dev := t.dev, busCalls := s.busCalls + 2, draws := t.draws
        trace := s.trace ++ [.sel, .tx [0x03#8, addrHi a, addrLo a] .ok, .rx len .ok t.rdata, .des] } ∧
      t.rdata.length = len ∧
      t.dev = { s.dev with mem := t.dev.mem, wel := t.dev.wel, pend := t.dev.pend, selected := false } ∧
      ∀ x, x / s.cfg.pageSize ≠ a.toNat / s.cfg.pageSize → Memory.read x t.dev.mem = Memory.read x s.dev.mem

/-! ## What the end of a run rests on -/

/-- 43_logging_orchestrator R183, R175, and the liveness premises of 70_reset R237 that a claim "LO.RUN ends" rests on. First:
LO.RUN reaches LO_DONE, BUSY = 0 and DONE = 1, if and only if each of its polls ends, whatever POLL_LIMIT, the bus results
and the devices. Second: a poll ends when the device's program finishes and status frames do not fail for ever. Over a
device that will report WIP set k more times (k = 0 where it is ready), within POLL_LIMIT or with POLL_LIMIT = INF, it ends
with the frame that is the (k+1)-th with both primitives `Ok`, however many before it failed; a failed frame leaves its mark
in BUS_FAIL only. (With POLL_LIMIT finite it ends by PollEndsOnStatusByteOrLimit at the latest; UnboundedPollHangs says when
it does not.) That every bus primitive returns and every Delay returns is built into State.result and delay (log 30). One
pass is one step (log 1). -/
def Obligations.LoRunEndsIffEveryPollEnds : Prop :=
  (∀ s s1 : State, s.busy = false → Inv s → s.loState = .idle → exec .loRun s = .next s1 →
    ((∃ (n : Nat) (t : State), core.run n s1 = .next t ∧ t.loState = .done ∧ t.done = true ∧ t.busy = false) ↔
      ∀ (m : Nat) (u : State), s1.during m u → u.polling = true →
        ∃ (k : Nat) (v : State), core.run k u = .next v ∧ v.polling = false)) ∧
  ∀ (s : State) (n k : Nat), s.polling = true → (if s.dev.wip then s.dev.kLeft = .fin k else k = 0) →
    pollAdmits s.cfg (s.pollCnt + (n + 1)) = true → s.goodFrames n = k → s.goodFrames (n + 1) = k + 1 →
    ∃ t, core.run (n + 1) s = .next t ∧ t.mwState = .idle ∧ t.pollCnt = s.pollCnt + (n + 1) ∧
      t.statusByte.getLsbD 0 = false ∧ t.dev.wip = false ∧ t.loState = s.afterWrite.1 ∧ t.done = s.afterWrite.2.1 ∧
      t.err = if n = k then s.err else s.err ||| 0b00001#5
end

