-- ==== Sys2Proof/Laws/State.lean ====
section
/-! SUPPORT. One lemma per field per update: what the primitive operations of Machine/Ops.lean leave in each field of
State. -/

namespace Sys2Proof.Machine

/-! ## log -/

@[simp] theorem log_cfg (e : Event) (s : State) : (log e s).cfg = s.cfg := rfl
@[simp] theorem log_scState (e : Event) (s : State) : (log e s).scState = s.scState := rfl
@[simp] theorem log_sampleHi (e : Event) (s : State) : (log e s).sampleHi = s.sampleHi := rfl
@[simp] theorem log_sampleLo (e : Event) (s : State) : (log e s).sampleLo = s.sampleLo := rfl
@[simp] theorem log_raw12 (e : Event) (s : State) : (log e s).raw12 = s.raw12 := rfl
@[simp] theorem log_mwState (e : Event) (s : State) : (log e s).mwState = s.mwState := rfl
@[simp] theorem log_pollCnt (e : Event) (s : State) : (log e s).pollCnt = s.pollCnt := rfl
@[simp] theorem log_statusByte (e : Event) (s : State) : (log e s).statusByte = s.statusByte := rfl
@[simp] theorem log_mrState (e : Event) (s : State) : (log e s).mrState = s.mrState := rfl
@[simp] theorem log_rdata (e : Event) (s : State) : (log e s).rdata = s.rdata := rfl
@[simp] theorem log_loState (e : Event) (s : State) : (log e s).loState = s.loState := rfl
@[simp] theorem log_logAddr (e : Event) (s : State) : (log e s).logAddr = s.logAddr := rfl
@[simp] theorem log_done (e : Event) (s : State) : (log e s).done = s.done := rfl
@[simp] theorem log_err (e : Event) (s : State) : (log e s).err = s.err := rfl
@[simp] theorem log_dev (e : Event) (s : State) : (log e s).dev = s.dev := rfl
@[simp] theorem log_sensor (e : Event) (s : State) : (log e s).sensor = s.sensor := rfl
@[simp] theorem log_requests (e : Event) (s : State) : (log e s).requests = s.requests := rfl
@[simp] theorem log_trace (e : Event) (s : State) : (log e s).trace = s.trace ++ [e] := rfl
@[simp] theorem log_script (e : Event) (s : State) : (log e s).script = s.script := rfl
@[simp] theorem log_busCalls (e : Event) (s : State) : (log e s).busCalls = s.busCalls := rfl
@[simp] theorem log_samples (e : Event) (s : State) : (log e s).samples = s.samples := rfl
@[simp] theorem log_programs (e : Event) (s : State) : (log e s).programs = s.programs := rfl
@[simp] theorem log_draws (e : Event) (s : State) : (log e s).draws = s.draws := rfl

/-! ## report -/

@[simp] theorem report_cfg (k : Kind) (c : Site) (s : State) : (report k c s).cfg = s.cfg := rfl
@[simp] theorem report_scState (k : Kind) (c : Site) (s : State) : (report k c s).scState = s.scState := rfl
@[simp] theorem report_sampleHi (k : Kind) (c : Site) (s : State) : (report k c s).sampleHi = s.sampleHi := rfl
@[simp] theorem report_sampleLo (k : Kind) (c : Site) (s : State) : (report k c s).sampleLo = s.sampleLo := rfl
@[simp] theorem report_raw12 (k : Kind) (c : Site) (s : State) : (report k c s).raw12 = s.raw12 := rfl
@[simp] theorem report_mwState (k : Kind) (c : Site) (s : State) : (report k c s).mwState = s.mwState := rfl
@[simp] theorem report_pollCnt (k : Kind) (c : Site) (s : State) : (report k c s).pollCnt = s.pollCnt := rfl
@[simp] theorem report_statusByte (k : Kind) (c : Site) (s : State) : (report k c s).statusByte = s.statusByte := rfl
@[simp] theorem report_mrState (k : Kind) (c : Site) (s : State) : (report k c s).mrState = s.mrState := rfl
@[simp] theorem report_rdata (k : Kind) (c : Site) (s : State) : (report k c s).rdata = s.rdata := rfl
@[simp] theorem report_loState (k : Kind) (c : Site) (s : State) : (report k c s).loState = s.loState := rfl
@[simp] theorem report_logAddr (k : Kind) (c : Site) (s : State) : (report k c s).logAddr = s.logAddr := rfl
@[simp] theorem report_done (k : Kind) (c : Site) (s : State) : (report k c s).done = s.done := rfl
@[simp] theorem report_err (k : Kind) (c : Site) (s : State) : (report k c s).err = s.err := rfl
@[simp] theorem report_dev (k : Kind) (c : Site) (s : State) : (report k c s).dev = s.dev := rfl
@[simp] theorem report_sensor (k : Kind) (c : Site) (s : State) : (report k c s).sensor = s.sensor := rfl
@[simp] theorem report_requests (k : Kind) (c : Site) (s : State) : (report k c s).requests = s.requests := rfl
@[simp] theorem report_trace (k : Kind) (c : Site) (s : State) : (report k c s).trace = s.trace ++ [.rpt k c] := rfl
@[simp] theorem report_script (k : Kind) (c : Site) (s : State) : (report k c s).script = s.script := rfl
@[simp] theorem report_busCalls (k : Kind) (c : Site) (s : State) : (report k c s).busCalls = s.busCalls := rfl
@[simp] theorem report_samples (k : Kind) (c : Site) (s : State) : (report k c s).samples = s.samples := rfl
@[simp] theorem report_programs (k : Kind) (c : Site) (s : State) : (report k c s).programs = s.programs := rfl
@[simp] theorem report_draws (k : Kind) (c : Site) (s : State) : (report k c s).draws = s.draws := rfl

/-! ## raise -/

@[simp] theorem raise_cfg (c : Cause) (x : Site) (s : State) : (raise c x s).cfg = s.cfg := rfl
@[simp] theorem raise_scState (c : Cause) (x : Site) (s : State) : (raise c x s).scState = s.scState := rfl
@[simp] theorem raise_sampleHi (c : Cause) (x : Site) (s : State) : (raise c x s).sampleHi = s.sampleHi := rfl
@[simp] theorem raise_sampleLo (c : Cause) (x : Site) (s : State) : (raise c x s).sampleLo = s.sampleLo := rfl
@[simp] theorem raise_raw12 (c : Cause) (x : Site) (s : State) : (raise c x s).raw12 = s.raw12 := rfl
@[simp] theorem raise_mwState (c : Cause) (x : Site) (s : State) : (raise c x s).mwState = s.mwState := rfl
@[simp] theorem raise_pollCnt (c : Cause) (x : Site) (s : State) : (raise c x s).pollCnt = s.pollCnt := rfl
@[simp] theorem raise_statusByte (c : Cause) (x : Site) (s : State) : (raise c x s).statusByte = s.statusByte := rfl
@[simp] theorem raise_mrState (c : Cause) (x : Site) (s : State) : (raise c x s).mrState = s.mrState := rfl
@[simp] theorem raise_rdata (c : Cause) (x : Site) (s : State) : (raise c x s).rdata = s.rdata := rfl
@[simp] theorem raise_loState (c : Cause) (x : Site) (s : State) : (raise c x s).loState = s.loState := rfl
@[simp] theorem raise_logAddr (c : Cause) (x : Site) (s : State) : (raise c x s).logAddr = s.logAddr := rfl
@[simp] theorem raise_done (c : Cause) (x : Site) (s : State) : (raise c x s).done = s.done := rfl
@[simp] theorem raise_err (c : Cause) (x : Site) (s : State) : (raise c x s).err = s.err ||| c.bit := rfl
@[simp] theorem raise_dev (c : Cause) (x : Site) (s : State) : (raise c x s).dev = s.dev := rfl
@[simp] theorem raise_sensor (c : Cause) (x : Site) (s : State) : (raise c x s).sensor = s.sensor := rfl
@[simp] theorem raise_requests (c : Cause) (x : Site) (s : State) : (raise c x s).requests = s.requests := rfl
@[simp] theorem raise_trace (c : Cause) (x : Site) (s : State) : (raise c x s).trace = s.trace ++ [.rpt (.cause c) x] := rfl
@[simp] theorem raise_script (c : Cause) (x : Site) (s : State) : (raise c x s).script = s.script := rfl
@[simp] theorem raise_busCalls (c : Cause) (x : Site) (s : State) : (raise c x s).busCalls = s.busCalls := rfl
@[simp] theorem raise_samples (c : Cause) (x : Site) (s : State) : (raise c x s).samples = s.samples := rfl
@[simp] theorem raise_programs (c : Cause) (x : Site) (s : State) : (raise c x s).programs = s.programs := rfl
@[simp] theorem raise_draws (c : Cause) (x : Site) (s : State) : (raise c x s).draws = s.draws := rfl

/-! ## callBus -/

@[simp] theorem callBus_cfg (e : Event) (s : State) : (callBus e s).cfg = s.cfg := rfl
@[simp] theorem callBus_scState (e : Event) (s : State) : (callBus e s).scState = s.scState := rfl
@[simp] theorem callBus_sampleHi (e : Event) (s : State) : (callBus e s).sampleHi = s.sampleHi := rfl
@[simp] theorem callBus_sampleLo (e : Event) (s : State) : (callBus e s).sampleLo = s.sampleLo := rfl
@[simp] theorem callBus_raw12 (e : Event) (s : State) : (callBus e s).raw12 = s.raw12 := rfl
@[simp] theorem callBus_mwState (e : Event) (s : State) : (callBus e s).mwState = s.mwState := rfl
@[simp] theorem callBus_pollCnt (e : Event) (s : State) : (callBus e s).pollCnt = s.pollCnt := rfl
@[simp] theorem callBus_statusByte (e : Event) (s : State) : (callBus e s).statusByte = s.statusByte := rfl
@[simp] theorem callBus_mrState (e : Event) (s : State) : (callBus e s).mrState = s.mrState := rfl
@[simp] theorem callBus_rdata (e : Event) (s : State) : (callBus e s).rdata = s.rdata := rfl
@[simp] theorem callBus_loState (e : Event) (s : State) : (callBus e s).loState = s.loState := rfl
@[simp] theorem callBus_logAddr (e : Event) (s : State) : (callBus e s).logAddr = s.logAddr := rfl
@[simp] theorem callBus_done (e : Event) (s : State) : (callBus e s).done = s.done := rfl
@[simp] theorem callBus_err (e : Event) (s : State) : (callBus e s).err = s.err := rfl
@[simp] theorem callBus_dev (e : Event) (s : State) : (callBus e s).dev = s.dev := rfl
@[simp] theorem callBus_sensor (e : Event) (s : State) : (callBus e s).sensor = s.sensor := rfl
@[simp] theorem callBus_requests (e : Event) (s : State) : (callBus e s).requests = s.requests := rfl
@[simp] theorem callBus_trace (e : Event) (s : State) : (callBus e s).trace = s.trace ++ [e] := rfl
@[simp] theorem callBus_script (e : Event) (s : State) : (callBus e s).script = s.script := rfl
@[simp] theorem callBus_busCalls (e : Event) (s : State) : (callBus e s).busCalls = s.busCalls + 1 := rfl
@[simp] theorem callBus_samples (e : Event) (s : State) : (callBus e s).samples = s.samples := rfl
@[simp] theorem callBus_programs (e : Event) (s : State) : (callBus e s).programs = s.programs := rfl
@[simp] theorem callBus_draws (e : Event) (s : State) : (callBus e s).draws = s.draws := rfl

/-! ## memSelect -/

@[simp] theorem memSelect_cfg (s : State) : (memSelect s).cfg = s.cfg := rfl
@[simp] theorem memSelect_scState (s : State) : (memSelect s).scState = s.scState := rfl
@[simp] theorem memSelect_sampleHi (s : State) : (memSelect s).sampleHi = s.sampleHi := rfl
@[simp] theorem memSelect_sampleLo (s : State) : (memSelect s).sampleLo = s.sampleLo := rfl
@[simp] theorem memSelect_raw12 (s : State) : (memSelect s).raw12 = s.raw12 := rfl
@[simp] theorem memSelect_mwState (s : State) : (memSelect s).mwState = s.mwState := rfl
@[simp] theorem memSelect_pollCnt (s : State) : (memSelect s).pollCnt = s.pollCnt := rfl
@[simp] theorem memSelect_statusByte (s : State) : (memSelect s).statusByte = s.statusByte := rfl
@[simp] theorem memSelect_mrState (s : State) : (memSelect s).mrState = s.mrState := rfl
@[simp] theorem memSelect_rdata (s : State) : (memSelect s).rdata = s.rdata := rfl
@[simp] theorem memSelect_loState (s : State) : (memSelect s).loState = s.loState := rfl
@[simp] theorem memSelect_logAddr (s : State) : (memSelect s).logAddr = s.logAddr := rfl
@[simp] theorem memSelect_done (s : State) : (memSelect s).done = s.done := rfl
@[simp] theorem memSelect_err (s : State) : (memSelect s).err = s.err := rfl
@[simp] theorem memSelect_dev (s : State) : (memSelect s).dev = { s.dev with selected := true } := rfl
@[simp] theorem memSelect_sensor (s : State) : (memSelect s).sensor = s.sensor := rfl
@[simp] theorem memSelect_requests (s : State) : (memSelect s).requests = s.requests := rfl
@[simp] theorem memSelect_trace (s : State) : (memSelect s).trace = s.trace ++ [.sel] := rfl
@[simp] theorem memSelect_script (s : State) : (memSelect s).script = s.script := rfl
@[simp] theorem memSelect_busCalls (s : State) : (memSelect s).busCalls = s.busCalls := rfl
@[simp] theorem memSelect_samples (s : State) : (memSelect s).samples = s.samples := rfl
@[simp] theorem memSelect_programs (s : State) : (memSelect s).programs = s.programs := rfl
@[simp] theorem memSelect_draws (s : State) : (memSelect s).draws = s.draws := rfl

/-! ## memDeselect -/

@[simp] theorem memDeselect_cfg (s : State) : (memDeselect s).cfg = s.cfg := rfl
@[simp] theorem memDeselect_scState (s : State) : (memDeselect s).scState = s.scState := rfl
@[simp] theorem memDeselect_sampleHi (s : State) : (memDeselect s).sampleHi = s.sampleHi := rfl
@[simp] theorem memDeselect_sampleLo (s : State) : (memDeselect s).sampleLo = s.sampleLo := rfl
@[simp] theorem memDeselect_raw12 (s : State) : (memDeselect s).raw12 = s.raw12 := rfl
@[simp] theorem memDeselect_mwState (s : State) : (memDeselect s).mwState = s.mwState := rfl
@[simp] theorem memDeselect_pollCnt (s : State) : (memDeselect s).pollCnt = s.pollCnt := rfl
@[simp] theorem memDeselect_statusByte (s : State) : (memDeselect s).statusByte = s.statusByte := rfl
@[simp] theorem memDeselect_mrState (s : State) : (memDeselect s).mrState = s.mrState := rfl
@[simp] theorem memDeselect_rdata (s : State) : (memDeselect s).rdata = s.rdata := rfl
@[simp] theorem memDeselect_loState (s : State) : (memDeselect s).loState = s.loState := rfl
@[simp] theorem memDeselect_logAddr (s : State) : (memDeselect s).logAddr = s.logAddr := rfl
@[simp] theorem memDeselect_done (s : State) : (memDeselect s).done = s.done := rfl
@[simp] theorem memDeselect_err (s : State) : (memDeselect s).err = s.err := rfl
@[simp] theorem memDeselect_dev (s : State) : (memDeselect s).dev = { s.dev with selected := false } := rfl
@[simp] theorem memDeselect_sensor (s : State) : (memDeselect s).sensor = s.sensor := rfl
@[simp] theorem memDeselect_requests (s : State) : (memDeselect s).requests = s.requests := rfl
@[simp] theorem memDeselect_trace (s : State) : (memDeselect s).trace = s.trace ++ [.des] := rfl
@[simp] theorem memDeselect_script (s : State) : (memDeselect s).script = s.script := rfl
@[simp] theorem memDeselect_busCalls (s : State) : (memDeselect s).busCalls = s.busCalls := rfl
@[simp] theorem memDeselect_samples (s : State) : (memDeselect s).samples = s.samples := rfl
@[simp] theorem memDeselect_programs (s : State) : (memDeselect s).programs = s.programs := rfl
@[simp] theorem memDeselect_draws (s : State) : (memDeselect s).draws = s.draws := rfl

/-! ## delay -/

@[simp] theorem delay_cfg (n : Nat) (s : State) : (delay n s).cfg = s.cfg := rfl
@[simp] theorem delay_scState (n : Nat) (s : State) : (delay n s).scState = s.scState := rfl
@[simp] theorem delay_sampleHi (n : Nat) (s : State) : (delay n s).sampleHi = s.sampleHi := rfl
@[simp] theorem delay_sampleLo (n : Nat) (s : State) : (delay n s).sampleLo = s.sampleLo := rfl
@[simp] theorem delay_raw12 (n : Nat) (s : State) : (delay n s).raw12 = s.raw12 := rfl
@[simp] theorem delay_mwState (n : Nat) (s : State) : (delay n s).mwState = s.mwState := rfl
@[simp] theorem delay_pollCnt (n : Nat) (s : State) : (delay n s).pollCnt = s.pollCnt := rfl
@[simp] theorem delay_statusByte (n : Nat) (s : State) : (delay n s).statusByte = s.statusByte := rfl
@[simp] theorem delay_mrState (n : Nat) (s : State) : (delay n s).mrState = s.mrState := rfl
@[simp] theorem delay_rdata (n : Nat) (s : State) : (delay n s).rdata = s.rdata := rfl
@[simp] theorem delay_loState (n : Nat) (s : State) : (delay n s).loState = s.loState := rfl
@[simp] theorem delay_logAddr (n : Nat) (s : State) : (delay n s).logAddr = s.logAddr := rfl
@[simp] theorem delay_done (n : Nat) (s : State) : (delay n s).done = s.done := rfl
@[simp] theorem delay_err (n : Nat) (s : State) : (delay n s).err = s.err := rfl
@[simp] theorem delay_dev (n : Nat) (s : State) : (delay n s).dev = s.dev := rfl
@[simp] theorem delay_sensor (n : Nat) (s : State) : (delay n s).sensor = s.sensor := rfl
@[simp] theorem delay_requests (n : Nat) (s : State) : (delay n s).requests = s.requests := rfl
@[simp] theorem delay_trace (n : Nat) (s : State) : (delay n s).trace = s.trace ++ [.dly n] := rfl
@[simp] theorem delay_script (n : Nat) (s : State) : (delay n s).script = s.script := rfl
@[simp] theorem delay_busCalls (n : Nat) (s : State) : (delay n s).busCalls = s.busCalls := rfl
@[simp] theorem delay_samples (n : Nat) (s : State) : (delay n s).samples = s.samples := rfl
@[simp] theorem delay_programs (n : Nat) (s : State) : (delay n s).programs = s.programs := rfl
@[simp] theorem delay_draws (n : Nat) (s : State) : (delay n s).draws = s.draws := rfl

/-! ## setDone -/

@[simp] theorem setDone_cfg (b : Bool) (s : State) : (setDone b s).cfg = s.cfg := rfl
@[simp] theorem setDone_scState (b : Bool) (s : State) : (setDone b s).scState = s.scState := rfl
@[simp] theorem setDone_sampleHi (b : Bool) (s : State) : (setDone b s).sampleHi = s.sampleHi := rfl
@[simp] theorem setDone_sampleLo (b : Bool) (s : State) : (setDone b s).sampleLo = s.sampleLo := rfl
@[simp] theorem setDone_raw12 (b : Bool) (s : State) : (setDone b s).raw12 = s.raw12 := rfl
@[simp] theorem setDone_mwState (b : Bool) (s : State) : (setDone b s).mwState = s.mwState := rfl
@[simp] theorem setDone_pollCnt (b : Bool) (s : State) : (setDone b s).pollCnt = s.pollCnt := rfl
@[simp] theorem setDone_statusByte (b : Bool) (s : State) : (setDone b s).statusByte = s.statusByte := rfl
@[simp] theorem setDone_mrState (b : Bool) (s : State) : (setDone b s).mrState = s.mrState := rfl
@[simp] theorem setDone_rdata (b : Bool) (s : State) : (setDone b s).rdata = s.rdata := rfl
@[simp] theorem setDone_loState (b : Bool) (s : State) : (setDone b s).loState = s.loState := rfl
@[simp] theorem setDone_logAddr (b : Bool) (s : State) : (setDone b s).logAddr = s.logAddr := rfl
@[simp] theorem setDone_done (b : Bool) (s : State) : (setDone b s).done = b := rfl
@[simp] theorem setDone_err (b : Bool) (s : State) : (setDone b s).err = s.err := rfl
@[simp] theorem setDone_dev (b : Bool) (s : State) : (setDone b s).dev = s.dev := rfl
@[simp] theorem setDone_sensor (b : Bool) (s : State) : (setDone b s).sensor = s.sensor := rfl
@[simp] theorem setDone_requests (b : Bool) (s : State) : (setDone b s).requests = s.requests := rfl
@[simp] theorem setDone_trace (b : Bool) (s : State) : (setDone b s).trace = s.trace ++ [.ind b] := rfl
@[simp] theorem setDone_script (b : Bool) (s : State) : (setDone b s).script = s.script := rfl
@[simp] theorem setDone_busCalls (b : Bool) (s : State) : (setDone b s).busCalls = s.busCalls := rfl
@[simp] theorem setDone_samples (b : Bool) (s : State) : (setDone b s).samples = s.samples := rfl
@[simp] theorem setDone_programs (b : Bool) (s : State) : (setDone b s).programs = s.programs := rfl
@[simp] theorem setDone_draws (b : Bool) (s : State) : (setDone b s).draws = s.draws := rfl

end Sys2Proof.Machine
end

