-- ==== Sys2Proof/Laws/Frames.lean ====
section
/-! SUPPORT. What each shared operation leaves unchanged, field by field. -/

namespace Sys2Proof.Machine

/-! ## noteFailure -/

@[simp] theorem noteFailure_cfg (r : BusResult) (x : Site) (s : State) : (noteFailure r x s).cfg = s.cfg := by cases r <;> rfl
@[simp] theorem noteFailure_scState (r : BusResult) (x : Site) (s : State) : (noteFailure r x s).scState = s.scState := by cases r <;> rfl
@[simp] theorem noteFailure_sampleHi (r : BusResult) (x : Site) (s : State) : (noteFailure r x s).sampleHi = s.sampleHi := by cases r <;> rfl
@[simp] theorem noteFailure_sampleLo (r : BusResult) (x : Site) (s : State) : (noteFailure r x s).sampleLo = s.sampleLo := by cases r <;> rfl
@[simp] theorem noteFailure_raw12 (r : BusResult) (x : Site) (s : State) : (noteFailure r x s).raw12 = s.raw12 := by cases r <;> rfl
@[simp] theorem noteFailure_mwState (r : BusResult) (x : Site) (s : State) : (noteFailure r x s).mwState = s.mwState := by cases r <;> rfl
@[simp] theorem noteFailure_pollCnt (r : BusResult) (x : Site) (s : State) : (noteFailure r x s).pollCnt = s.pollCnt := by cases r <;> rfl
@[simp] theorem noteFailure_statusByte (r : BusResult) (x : Site) (s : State) : (noteFailure r x s).statusByte = s.statusByte := by cases r <;> rfl
@[simp] theorem noteFailure_mrState (r : BusResult) (x : Site) (s : State) : (noteFailure r x s).mrState = s.mrState := by cases r <;> rfl
@[simp] theorem noteFailure_rdata (r : BusResult) (x : Site) (s : State) : (noteFailure r x s).rdata = s.rdata := by cases r <;> rfl
@[simp] theorem noteFailure_loState (r : BusResult) (x : Site) (s : State) : (noteFailure r x s).loState = s.loState := by cases r <;> rfl
@[simp] theorem noteFailure_logAddr (r : BusResult) (x : Site) (s : State) : (noteFailure r x s).logAddr = s.logAddr := by cases r <;> rfl
@[simp] theorem noteFailure_done (r : BusResult) (x : Site) (s : State) : (noteFailure r x s).done = s.done := by cases r <;> rfl
@[simp] theorem noteFailure_dev (r : BusResult) (x : Site) (s : State) : (noteFailure r x s).dev = s.dev := by cases r <;> rfl
@[simp] theorem noteFailure_sensor (r : BusResult) (x : Site) (s : State) : (noteFailure r x s).sensor = s.sensor := by cases r <;> rfl
@[simp] theorem noteFailure_requests (r : BusResult) (x : Site) (s : State) : (noteFailure r x s).requests = s.requests := by cases r <;> rfl
@[simp] theorem noteFailure_script (r : BusResult) (x : Site) (s : State) : (noteFailure r x s).script = s.script := by cases r <;> rfl
@[simp] theorem noteFailure_busCalls (r : BusResult) (x : Site) (s : State) : (noteFailure r x s).busCalls = s.busCalls := by cases r <;> rfl
@[simp] theorem noteFailure_samples (r : BusResult) (x : Site) (s : State) : (noteFailure r x s).samples = s.samples := by cases r <;> rfl
@[simp] theorem noteFailure_programs (r : BusResult) (x : Site) (s : State) : (noteFailure r x s).programs = s.programs := by cases r <;> rfl
@[simp] theorem noteFailure_draws (r : BusResult) (x : Site) (s : State) : (noteFailure r x s).draws = s.draws := by cases r <;> rfl

/-! ## reportResult -/

@[simp] theorem reportResult_cfg (r : BusResult) (x : Site) (s : State) : (reportResult r x s).cfg = s.cfg := by cases r <;> rfl
@[simp] theorem reportResult_scState (r : BusResult) (x : Site) (s : State) : (reportResult r x s).scState = s.scState := by cases r <;> rfl
@[simp] theorem reportResult_sampleHi (r : BusResult) (x : Site) (s : State) : (reportResult r x s).sampleHi = s.sampleHi := by cases r <;> rfl
@[simp] theorem reportResult_sampleLo (r : BusResult) (x : Site) (s : State) : (reportResult r x s).sampleLo = s.sampleLo := by cases r <;> rfl
@[simp] theorem reportResult_raw12 (r : BusResult) (x : Site) (s : State) : (reportResult r x s).raw12 = s.raw12 := by cases r <;> rfl
@[simp] theorem reportResult_mwState (r : BusResult) (x : Site) (s : State) : (reportResult r x s).mwState = s.mwState := by cases r <;> rfl
@[simp] theorem reportResult_pollCnt (r : BusResult) (x : Site) (s : State) : (reportResult r x s).pollCnt = s.pollCnt := by cases r <;> rfl
@[simp] theorem reportResult_statusByte (r : BusResult) (x : Site) (s : State) : (reportResult r x s).statusByte = s.statusByte := by cases r <;> rfl
@[simp] theorem reportResult_mrState (r : BusResult) (x : Site) (s : State) : (reportResult r x s).mrState = s.mrState := by cases r <;> rfl
@[simp] theorem reportResult_rdata (r : BusResult) (x : Site) (s : State) : (reportResult r x s).rdata = s.rdata := by cases r <;> rfl
@[simp] theorem reportResult_loState (r : BusResult) (x : Site) (s : State) : (reportResult r x s).loState = s.loState := by cases r <;> rfl
@[simp] theorem reportResult_logAddr (r : BusResult) (x : Site) (s : State) : (reportResult r x s).logAddr = s.logAddr := by cases r <;> rfl
@[simp] theorem reportResult_done (r : BusResult) (x : Site) (s : State) : (reportResult r x s).done = s.done := by cases r <;> rfl
@[simp] theorem reportResult_dev (r : BusResult) (x : Site) (s : State) : (reportResult r x s).dev = s.dev := by cases r <;> rfl
@[simp] theorem reportResult_sensor (r : BusResult) (x : Site) (s : State) : (reportResult r x s).sensor = s.sensor := by cases r <;> rfl
@[simp] theorem reportResult_requests (r : BusResult) (x : Site) (s : State) : (reportResult r x s).requests = s.requests := by cases r <;> rfl
@[simp] theorem reportResult_script (r : BusResult) (x : Site) (s : State) : (reportResult r x s).script = s.script := by cases r <;> rfl
@[simp] theorem reportResult_busCalls (r : BusResult) (x : Site) (s : State) : (reportResult r x s).busCalls = s.busCalls := by cases r <;> rfl
@[simp] theorem reportResult_samples (r : BusResult) (x : Site) (s : State) : (reportResult r x s).samples = s.samples := by cases r <;> rfl
@[simp] theorem reportResult_programs (r : BusResult) (x : Site) (s : State) : (reportResult r x s).programs = s.programs := by cases r <;> rfl
@[simp] theorem reportResult_draws (r : BusResult) (x : Site) (s : State) : (reportResult r x s).draws = s.draws := by cases r <;> rfl

/-! ## deviceHears -/

@[simp] theorem deviceHears_cfg (r : BusResult) (f : Frame) (s : State) : (deviceHears r f s).cfg = s.cfg := by cases r <;> rfl
@[simp] theorem deviceHears_scState (r : BusResult) (f : Frame) (s : State) : (deviceHears r f s).scState = s.scState := by cases r <;> rfl
@[simp] theorem deviceHears_sampleHi (r : BusResult) (f : Frame) (s : State) : (deviceHears r f s).sampleHi = s.sampleHi := by cases r <;> rfl
@[simp] theorem deviceHears_sampleLo (r : BusResult) (f : Frame) (s : State) : (deviceHears r f s).sampleLo = s.sampleLo := by cases r <;> rfl
@[simp] theorem deviceHears_raw12 (r : BusResult) (f : Frame) (s : State) : (deviceHears r f s).raw12 = s.raw12 := by cases r <;> rfl
@[simp] theorem deviceHears_mwState (r : BusResult) (f : Frame) (s : State) : (deviceHears r f s).mwState = s.mwState := by cases r <;> rfl
@[simp] theorem deviceHears_pollCnt (r : BusResult) (f : Frame) (s : State) : (deviceHears r f s).pollCnt = s.pollCnt := by cases r <;> rfl
@[simp] theorem deviceHears_statusByte (r : BusResult) (f : Frame) (s : State) : (deviceHears r f s).statusByte = s.statusByte := by cases r <;> rfl
@[simp] theorem deviceHears_mrState (r : BusResult) (f : Frame) (s : State) : (deviceHears r f s).mrState = s.mrState := by cases r <;> rfl
@[simp] theorem deviceHears_rdata (r : BusResult) (f : Frame) (s : State) : (deviceHears r f s).rdata = s.rdata := by cases r <;> rfl
@[simp] theorem deviceHears_loState (r : BusResult) (f : Frame) (s : State) : (deviceHears r f s).loState = s.loState := by cases r <;> rfl
@[simp] theorem deviceHears_logAddr (r : BusResult) (f : Frame) (s : State) : (deviceHears r f s).logAddr = s.logAddr := by cases r <;> rfl
@[simp] theorem deviceHears_done (r : BusResult) (f : Frame) (s : State) : (deviceHears r f s).done = s.done := by cases r <;> rfl
@[simp] theorem deviceHears_err (r : BusResult) (f : Frame) (s : State) : (deviceHears r f s).err = s.err := by cases r <;> rfl
@[simp] theorem deviceHears_sensor (r : BusResult) (f : Frame) (s : State) : (deviceHears r f s).sensor = s.sensor := by cases r <;> rfl
@[simp] theorem deviceHears_requests (r : BusResult) (f : Frame) (s : State) : (deviceHears r f s).requests = s.requests := by cases r <;> rfl
@[simp] theorem deviceHears_trace (r : BusResult) (f : Frame) (s : State) : (deviceHears r f s).trace = s.trace := by cases r <;> rfl
@[simp] theorem deviceHears_script (r : BusResult) (f : Frame) (s : State) : (deviceHears r f s).script = s.script := by cases r <;> rfl
@[simp] theorem deviceHears_busCalls (r : BusResult) (f : Frame) (s : State) : (deviceHears r f s).busCalls = s.busCalls := by cases r <;> rfl
@[simp] theorem deviceHears_samples (r : BusResult) (f : Frame) (s : State) : (deviceHears r f s).samples = s.samples := by cases r <;> rfl

/-! ## sensorHears -/

@[simp] theorem sensorHears_cfg (r : BusResult) (f : Transfer) (s : State) : (sensorHears r f s).cfg = s.cfg := by cases r <;> rfl
@[simp] theorem sensorHears_scState (r : BusResult) (f : Transfer) (s : State) : (sensorHears r f s).scState = s.scState := by cases r <;> rfl
@[simp] theorem sensorHears_sampleHi (r : BusResult) (f : Transfer) (s : State) : (sensorHears r f s).sampleHi = s.sampleHi := by cases r <;> rfl
@[simp] theorem sensorHears_sampleLo (r : BusResult) (f : Transfer) (s : State) : (sensorHears r f s).sampleLo = s.sampleLo := by cases r <;> rfl
@[simp] theorem sensorHears_raw12 (r : BusResult) (f : Transfer) (s : State) : (sensorHears r f s).raw12 = s.raw12 := by cases r <;> rfl
@[simp] theorem sensorHears_mwState (r : BusResult) (f : Transfer) (s : State) : (sensorHears r f s).mwState = s.mwState := by cases r <;> rfl
@[simp] theorem sensorHears_pollCnt (r : BusResult) (f : Transfer) (s : State) : (sensorHears r f s).pollCnt = s.pollCnt := by cases r <;> rfl
@[simp] theorem sensorHears_statusByte (r : BusResult) (f : Transfer) (s : State) : (sensorHears r f s).statusByte = s.statusByte := by cases r <;> rfl
@[simp] theorem sensorHears_mrState (r : BusResult) (f : Transfer) (s : State) : (sensorHears r f s).mrState = s.mrState := by cases r <;> rfl
@[simp] theorem sensorHears_rdata (r : BusResult) (f : Transfer) (s : State) : (sensorHears r f s).rdata = s.rdata := by cases r <;> rfl
@[simp] theorem sensorHears_loState (r : BusResult) (f : Transfer) (s : State) : (sensorHears r f s).loState = s.loState := by cases r <;> rfl
@[simp] theorem sensorHears_logAddr (r : BusResult) (f : Transfer) (s : State) : (sensorHears r f s).logAddr = s.logAddr := by cases r <;> rfl
@[simp] theorem sensorHears_done (r : BusResult) (f : Transfer) (s : State) : (sensorHears r f s).done = s.done := by cases r <;> rfl
@[simp] theorem sensorHears_err (r : BusResult) (f : Transfer) (s : State) : (sensorHears r f s).err = s.err := by cases r <;> rfl
@[simp] theorem sensorHears_dev (r : BusResult) (f : Transfer) (s : State) : (sensorHears r f s).dev = s.dev := by cases r <;> rfl
@[simp] theorem sensorHears_requests (r : BusResult) (f : Transfer) (s : State) : (sensorHears r f s).requests = s.requests := by cases r <;> rfl
@[simp] theorem sensorHears_trace (r : BusResult) (f : Transfer) (s : State) : (sensorHears r f s).trace = s.trace := by cases r <;> rfl
@[simp] theorem sensorHears_script (r : BusResult) (f : Transfer) (s : State) : (sensorHears r f s).script = s.script := by cases r <;> rfl
@[simp] theorem sensorHears_busCalls (r : BusResult) (f : Transfer) (s : State) : (sensorHears r f s).busCalls = s.busCalls := by cases r <;> rfl
@[simp] theorem sensorHears_samples (r : BusResult) (f : Transfer) (s : State) : (sensorHears r f s).samples = s.samples := by cases r <;> rfl
@[simp] theorem sensorHears_programs (r : BusResult) (f : Transfer) (s : State) : (sensorHears r f s).programs = s.programs := by cases r <;> rfl

/-! ## sensorRead -/

@[simp] theorem sensorRead_cfg (r : BusResult) (s : State) : (sensorRead r s).cfg = s.cfg := by cases r <;> rfl
@[simp] theorem sensorRead_scState (r : BusResult) (s : State) : (sensorRead r s).scState = s.scState := by cases r <;> rfl
@[simp] theorem sensorRead_sampleHi (r : BusResult) (s : State) : (sensorRead r s).sampleHi = s.sampleHi := by cases r <;> rfl
@[simp] theorem sensorRead_sampleLo (r : BusResult) (s : State) : (sensorRead r s).sampleLo = s.sampleLo := by cases r <;> rfl
@[simp] theorem sensorRead_raw12 (r : BusResult) (s : State) : (sensorRead r s).raw12 = s.raw12 := by cases r <;> rfl
@[simp] theorem sensorRead_mwState (r : BusResult) (s : State) : (sensorRead r s).mwState = s.mwState := by cases r <;> rfl
@[simp] theorem sensorRead_pollCnt (r : BusResult) (s : State) : (sensorRead r s).pollCnt = s.pollCnt := by cases r <;> rfl
@[simp] theorem sensorRead_statusByte (r : BusResult) (s : State) : (sensorRead r s).statusByte = s.statusByte := by cases r <;> rfl
@[simp] theorem sensorRead_mrState (r : BusResult) (s : State) : (sensorRead r s).mrState = s.mrState := by cases r <;> rfl
@[simp] theorem sensorRead_rdata (r : BusResult) (s : State) : (sensorRead r s).rdata = s.rdata := by cases r <;> rfl
@[simp] theorem sensorRead_loState (r : BusResult) (s : State) : (sensorRead r s).loState = s.loState := by cases r <;> rfl
@[simp] theorem sensorRead_logAddr (r : BusResult) (s : State) : (sensorRead r s).logAddr = s.logAddr := by cases r <;> rfl
@[simp] theorem sensorRead_done (r : BusResult) (s : State) : (sensorRead r s).done = s.done := by cases r <;> rfl
@[simp] theorem sensorRead_err (r : BusResult) (s : State) : (sensorRead r s).err = s.err := by cases r <;> rfl
@[simp] theorem sensorRead_dev (r : BusResult) (s : State) : (sensorRead r s).dev = s.dev := by cases r <;> rfl
@[simp] theorem sensorRead_requests (r : BusResult) (s : State) : (sensorRead r s).requests = s.requests := by cases r <;> rfl
@[simp] theorem sensorRead_trace (r : BusResult) (s : State) : (sensorRead r s).trace = s.trace := by cases r <;> rfl
@[simp] theorem sensorRead_script (r : BusResult) (s : State) : (sensorRead r s).script = s.script := by cases r <;> rfl
@[simp] theorem sensorRead_busCalls (r : BusResult) (s : State) : (sensorRead r s).busCalls = s.busCalls := by cases r <;> rfl
@[simp] theorem sensorRead_programs (r : BusResult) (s : State) : (sensorRead r s).programs = s.programs := by cases r <;> rfl

/-! ## twiWrite -/

@[simp] theorem twiWrite_cfg (r : BusResult) (a : Byte) (b : List Byte) (s : State) : (twiWrite r a b s).cfg = s.cfg := by simp [twiWrite]
@[simp] theorem twiWrite_scState (r : BusResult) (a : Byte) (b : List Byte) (s : State) : (twiWrite r a b s).scState = s.scState := by simp [twiWrite]
@[simp] theorem twiWrite_sampleHi (r : BusResult) (a : Byte) (b : List Byte) (s : State) : (twiWrite r a b s).sampleHi = s.sampleHi := by simp [twiWrite]
@[simp] theorem twiWrite_sampleLo (r : BusResult) (a : Byte) (b : List Byte) (s : State) : (twiWrite r a b s).sampleLo = s.sampleLo := by simp [twiWrite]
@[simp] theorem twiWrite_raw12 (r : BusResult) (a : Byte) (b : List Byte) (s : State) : (twiWrite r a b s).raw12 = s.raw12 := by simp [twiWrite]
@[simp] theorem twiWrite_mwState (r : BusResult) (a : Byte) (b : List Byte) (s : State) : (twiWrite r a b s).mwState = s.mwState := by simp [twiWrite]
@[simp] theorem twiWrite_pollCnt (r : BusResult) (a : Byte) (b : List Byte) (s : State) : (twiWrite r a b s).pollCnt = s.pollCnt := by simp [twiWrite]
@[simp] theorem twiWrite_statusByte (r : BusResult) (a : Byte) (b : List Byte) (s : State) : (twiWrite r a b s).statusByte = s.statusByte := by simp [twiWrite]
@[simp] theorem twiWrite_mrState (r : BusResult) (a : Byte) (b : List Byte) (s : State) : (twiWrite r a b s).mrState = s.mrState := by simp [twiWrite]
@[simp] theorem twiWrite_rdata (r : BusResult) (a : Byte) (b : List Byte) (s : State) : (twiWrite r a b s).rdata = s.rdata := by simp [twiWrite]
@[simp] theorem twiWrite_loState (r : BusResult) (a : Byte) (b : List Byte) (s : State) : (twiWrite r a b s).loState = s.loState := by simp [twiWrite]
@[simp] theorem twiWrite_logAddr (r : BusResult) (a : Byte) (b : List Byte) (s : State) : (twiWrite r a b s).logAddr = s.logAddr := by simp [twiWrite]
@[simp] theorem twiWrite_done (r : BusResult) (a : Byte) (b : List Byte) (s : State) : (twiWrite r a b s).done = s.done := by simp [twiWrite]
@[simp] theorem twiWrite_err (r : BusResult) (a : Byte) (b : List Byte) (s : State) : (twiWrite r a b s).err = s.err := by simp [twiWrite]
@[simp] theorem twiWrite_dev (r : BusResult) (a : Byte) (b : List Byte) (s : State) : (twiWrite r a b s).dev = s.dev := by simp [twiWrite]
@[simp] theorem twiWrite_requests (r : BusResult) (a : Byte) (b : List Byte) (s : State) : (twiWrite r a b s).requests = s.requests := by simp [twiWrite]
@[simp] theorem twiWrite_script (r : BusResult) (a : Byte) (b : List Byte) (s : State) : (twiWrite r a b s).script = s.script := by simp [twiWrite]
@[simp] theorem twiWrite_samples (r : BusResult) (a : Byte) (b : List Byte) (s : State) : (twiWrite r a b s).samples = s.samples := by simp [twiWrite]
@[simp] theorem twiWrite_programs (r : BusResult) (a : Byte) (b : List Byte) (s : State) : (twiWrite r a b s).programs = s.programs := by simp [twiWrite]

/-! ## twiRead -/

@[simp] theorem twiRead_cfg (r : BusResult) (a : Byte) (s : State) : (twiRead r a s).cfg = s.cfg := by simp [twiRead]
@[simp] theorem twiRead_scState (r : BusResult) (a : Byte) (s : State) : (twiRead r a s).scState = s.scState := by simp [twiRead]
@[simp] theorem twiRead_sampleHi (r : BusResult) (a : Byte) (s : State) : (twiRead r a s).sampleHi = s.sampleHi := by simp [twiRead]
@[simp] theorem twiRead_sampleLo (r : BusResult) (a : Byte) (s : State) : (twiRead r a s).sampleLo = s.sampleLo := by simp [twiRead]
@[simp] theorem twiRead_raw12 (r : BusResult) (a : Byte) (s : State) : (twiRead r a s).raw12 = s.raw12 := by simp [twiRead]
@[simp] theorem twiRead_mwState (r : BusResult) (a : Byte) (s : State) : (twiRead r a s).mwState = s.mwState := by simp [twiRead]
@[simp] theorem twiRead_pollCnt (r : BusResult) (a : Byte) (s : State) : (twiRead r a s).pollCnt = s.pollCnt := by simp [twiRead]
@[simp] theorem twiRead_statusByte (r : BusResult) (a : Byte) (s : State) : (twiRead r a s).statusByte = s.statusByte := by simp [twiRead]
@[simp] theorem twiRead_mrState (r : BusResult) (a : Byte) (s : State) : (twiRead r a s).mrState = s.mrState := by simp [twiRead]
@[simp] theorem twiRead_rdata (r : BusResult) (a : Byte) (s : State) : (twiRead r a s).rdata = s.rdata := by simp [twiRead]
@[simp] theorem twiRead_loState (r : BusResult) (a : Byte) (s : State) : (twiRead r a s).loState = s.loState := by simp [twiRead]
@[simp] theorem twiRead_logAddr (r : BusResult) (a : Byte) (s : State) : (twiRead r a s).logAddr = s.logAddr := by simp [twiRead]
@[simp] theorem twiRead_done (r : BusResult) (a : Byte) (s : State) : (twiRead r a s).done = s.done := by simp [twiRead]
@[simp] theorem twiRead_err (r : BusResult) (a : Byte) (s : State) : (twiRead r a s).err = s.err := by simp [twiRead]
@[simp] theorem twiRead_dev (r : BusResult) (a : Byte) (s : State) : (twiRead r a s).dev = s.dev := by simp [twiRead]
@[simp] theorem twiRead_requests (r : BusResult) (a : Byte) (s : State) : (twiRead r a s).requests = s.requests := by simp [twiRead]
@[simp] theorem twiRead_script (r : BusResult) (a : Byte) (s : State) : (twiRead r a s).script = s.script := by simp [twiRead]
@[simp] theorem twiRead_programs (r : BusResult) (a : Byte) (s : State) : (twiRead r a s).programs = s.programs := by simp [twiRead]

/-! ## frameOut -/

@[simp] theorem frameOut_cfg (tx : List Byte) (x : Site) (s : State) : (frameOut tx x s).cfg = s.cfg := by simp [frameOut]
@[simp] theorem frameOut_scState (tx : List Byte) (x : Site) (s : State) : (frameOut tx x s).scState = s.scState := by simp [frameOut]
@[simp] theorem frameOut_sampleHi (tx : List Byte) (x : Site) (s : State) : (frameOut tx x s).sampleHi = s.sampleHi := by simp [frameOut]
@[simp] theorem frameOut_sampleLo (tx : List Byte) (x : Site) (s : State) : (frameOut tx x s).sampleLo = s.sampleLo := by simp [frameOut]
@[simp] theorem frameOut_raw12 (tx : List Byte) (x : Site) (s : State) : (frameOut tx x s).raw12 = s.raw12 := by simp [frameOut]
@[simp] theorem frameOut_mwState (tx : List Byte) (x : Site) (s : State) : (frameOut tx x s).mwState = s.mwState := by simp [frameOut]
@[simp] theorem frameOut_pollCnt (tx : List Byte) (x : Site) (s : State) : (frameOut tx x s).pollCnt = s.pollCnt := by simp [frameOut]
@[simp] theorem frameOut_statusByte (tx : List Byte) (x : Site) (s : State) : (frameOut tx x s).statusByte = s.statusByte := by simp [frameOut]
@[simp] theorem frameOut_mrState (tx : List Byte) (x : Site) (s : State) : (frameOut tx x s).mrState = s.mrState := by simp [frameOut]
@[simp] theorem frameOut_rdata (tx : List Byte) (x : Site) (s : State) : (frameOut tx x s).rdata = s.rdata := by simp [frameOut]
@[simp] theorem frameOut_loState (tx : List Byte) (x : Site) (s : State) : (frameOut tx x s).loState = s.loState := by simp [frameOut]
@[simp] theorem frameOut_logAddr (tx : List Byte) (x : Site) (s : State) : (frameOut tx x s).logAddr = s.logAddr := by simp [frameOut]
@[simp] theorem frameOut_done (tx : List Byte) (x : Site) (s : State) : (frameOut tx x s).done = s.done := by simp [frameOut]
@[simp] theorem frameOut_sensor (tx : List Byte) (x : Site) (s : State) : (frameOut tx x s).sensor = s.sensor := by simp [frameOut]
@[simp] theorem frameOut_requests (tx : List Byte) (x : Site) (s : State) : (frameOut tx x s).requests = s.requests := by simp [frameOut]
@[simp] theorem frameOut_script (tx : List Byte) (x : Site) (s : State) : (frameOut tx x s).script = s.script := by simp [frameOut]
@[simp] theorem frameOut_samples (tx : List Byte) (x : Site) (s : State) : (frameOut tx x s).samples = s.samples := by simp [frameOut]

/-! ## frameIn -/

@[simp] theorem frameIn_cfg (tx : List Byte) (n : Nat) (x y : Site) (s : State) : (frameIn tx n x y s).cfg = s.cfg := by simp [frameIn]
@[simp] theorem frameIn_scState (tx : List Byte) (n : Nat) (x y : Site) (s : State) : (frameIn tx n x y s).scState = s.scState := by simp [frameIn]
@[simp] theorem frameIn_sampleHi (tx : List Byte) (n : Nat) (x y : Site) (s : State) : (frameIn tx n x y s).sampleHi = s.sampleHi := by simp [frameIn]
@[simp] theorem frameIn_sampleLo (tx : List Byte) (n : Nat) (x y : Site) (s : State) : (frameIn tx n x y s).sampleLo = s.sampleLo := by simp [frameIn]
@[simp] theorem frameIn_raw12 (tx : List Byte) (n : Nat) (x y : Site) (s : State) : (frameIn tx n x y s).raw12 = s.raw12 := by simp [frameIn]
@[simp] theorem frameIn_mwState (tx : List Byte) (n : Nat) (x y : Site) (s : State) : (frameIn tx n x y s).mwState = s.mwState := by simp [frameIn]
@[simp] theorem frameIn_pollCnt (tx : List Byte) (n : Nat) (x y : Site) (s : State) : (frameIn tx n x y s).pollCnt = s.pollCnt := by simp [frameIn]
@[simp] theorem frameIn_statusByte (tx : List Byte) (n : Nat) (x y : Site) (s : State) : (frameIn tx n x y s).statusByte = s.statusByte := by simp [frameIn]
@[simp] theorem frameIn_mrState (tx : List Byte) (n : Nat) (x y : Site) (s : State) : (frameIn tx n x y s).mrState = s.mrState := by simp [frameIn]
@[simp] theorem frameIn_rdata (tx : List Byte) (n : Nat) (x y : Site) (s : State) : (frameIn tx n x y s).rdata = s.rdata := by simp [frameIn]
@[simp] theorem frameIn_loState (tx : List Byte) (n : Nat) (x y : Site) (s : State) : (frameIn tx n x y s).loState = s.loState := by simp [frameIn]
@[simp] theorem frameIn_logAddr (tx : List Byte) (n : Nat) (x y : Site) (s : State) : (frameIn tx n x y s).logAddr = s.logAddr := by simp [frameIn]
@[simp] theorem frameIn_done (tx : List Byte) (n : Nat) (x y : Site) (s : State) : (frameIn tx n x y s).done = s.done := by simp [frameIn]
@[simp] theorem frameIn_sensor (tx : List Byte) (n : Nat) (x y : Site) (s : State) : (frameIn tx n x y s).sensor = s.sensor := by simp [frameIn]
@[simp] theorem frameIn_requests (tx : List Byte) (n : Nat) (x y : Site) (s : State) : (frameIn tx n x y s).requests = s.requests := by simp [frameIn]
@[simp] theorem frameIn_script (tx : List Byte) (n : Nat) (x y : Site) (s : State) : (frameIn tx n x y s).script = s.script := by simp [frameIn]
@[simp] theorem frameIn_samples (tx : List Byte) (n : Nat) (x y : Site) (s : State) : (frameIn tx n x y s).samples = s.samples := by simp [frameIn]

/-! ## foreignFrame -/

@[simp] theorem foreignFrame_cfg (f : Frame) (s : State) : (foreignFrame f s).cfg = s.cfg := by unfold foreignFrame; split <;> simp
@[simp] theorem foreignFrame_scState (f : Frame) (s : State) : (foreignFrame f s).scState = s.scState := by unfold foreignFrame; split <;> simp
@[simp] theorem foreignFrame_sampleHi (f : Frame) (s : State) : (foreignFrame f s).sampleHi = s.sampleHi := by unfold foreignFrame; split <;> simp
@[simp] theorem foreignFrame_sampleLo (f : Frame) (s : State) : (foreignFrame f s).sampleLo = s.sampleLo := by unfold foreignFrame; split <;> simp
@[simp] theorem foreignFrame_raw12 (f : Frame) (s : State) : (foreignFrame f s).raw12 = s.raw12 := by unfold foreignFrame; split <;> simp
@[simp] theorem foreignFrame_mwState (f : Frame) (s : State) : (foreignFrame f s).mwState = s.mwState := by unfold foreignFrame; split <;> simp
@[simp] theorem foreignFrame_pollCnt (f : Frame) (s : State) : (foreignFrame f s).pollCnt = s.pollCnt := by unfold foreignFrame; split <;> simp
@[simp] theorem foreignFrame_statusByte (f : Frame) (s : State) : (foreignFrame f s).statusByte = s.statusByte := by unfold foreignFrame; split <;> simp
@[simp] theorem foreignFrame_mrState (f : Frame) (s : State) : (foreignFrame f s).mrState = s.mrState := by unfold foreignFrame; split <;> simp
@[simp] theorem foreignFrame_rdata (f : Frame) (s : State) : (foreignFrame f s).rdata = s.rdata := by unfold foreignFrame; split <;> simp
@[simp] theorem foreignFrame_loState (f : Frame) (s : State) : (foreignFrame f s).loState = s.loState := by unfold foreignFrame; split <;> simp
@[simp] theorem foreignFrame_logAddr (f : Frame) (s : State) : (foreignFrame f s).logAddr = s.logAddr := by unfold foreignFrame; split <;> simp
@[simp] theorem foreignFrame_done (f : Frame) (s : State) : (foreignFrame f s).done = s.done := by unfold foreignFrame; split <;> simp
@[simp] theorem foreignFrame_err (f : Frame) (s : State) : (foreignFrame f s).err = s.err := by unfold foreignFrame; split <;> simp
@[simp] theorem foreignFrame_sensor (f : Frame) (s : State) : (foreignFrame f s).sensor = s.sensor := by unfold foreignFrame; split <;> simp
@[simp] theorem foreignFrame_requests (f : Frame) (s : State) : (foreignFrame f s).requests = s.requests := by unfold foreignFrame; split <;> simp
@[simp] theorem foreignFrame_script (f : Frame) (s : State) : (foreignFrame f s).script = s.script := by unfold foreignFrame; split <;> simp
@[simp] theorem foreignFrame_busCalls (f : Frame) (s : State) : (foreignFrame f s).busCalls = s.busCalls := by unfold foreignFrame; split <;> simp
@[simp] theorem foreignFrame_samples (f : Frame) (s : State) : (foreignFrame f s).samples = s.samples := by unfold foreignFrame; split <;> simp

/-! ## foreignWrite -/

@[simp] theorem foreignWrite_cfg (a : Byte) (b : List Byte) (s : State) : (foreignWrite a b s).cfg = s.cfg := by simp [foreignWrite]
@[simp] theorem foreignWrite_scState (a : Byte) (b : List Byte) (s : State) : (foreignWrite a b s).scState = s.scState := by simp [foreignWrite]
@[simp] theorem foreignWrite_sampleHi (a : Byte) (b : List Byte) (s : State) : (foreignWrite a b s).sampleHi = s.sampleHi := by simp [foreignWrite]
@[simp] theorem foreignWrite_sampleLo (a : Byte) (b : List Byte) (s : State) : (foreignWrite a b s).sampleLo = s.sampleLo := by simp [foreignWrite]
@[simp] theorem foreignWrite_raw12 (a : Byte) (b : List Byte) (s : State) : (foreignWrite a b s).raw12 = s.raw12 := by simp [foreignWrite]
@[simp] theorem foreignWrite_mwState (a : Byte) (b : List Byte) (s : State) : (foreignWrite a b s).mwState = s.mwState := by simp [foreignWrite]
@[simp] theorem foreignWrite_pollCnt (a : Byte) (b : List Byte) (s : State) : (foreignWrite a b s).pollCnt = s.pollCnt := by simp [foreignWrite]
@[simp] theorem foreignWrite_statusByte (a : Byte) (b : List Byte) (s : State) : (foreignWrite a b s).statusByte = s.statusByte := by simp [foreignWrite]
@[simp] theorem foreignWrite_mrState (a : Byte) (b : List Byte) (s : State) : (foreignWrite a b s).mrState = s.mrState := by simp [foreignWrite]
@[simp] theorem foreignWrite_rdata (a : Byte) (b : List Byte) (s : State) : (foreignWrite a b s).rdata = s.rdata := by simp [foreignWrite]
@[simp] theorem foreignWrite_loState (a : Byte) (b : List Byte) (s : State) : (foreignWrite a b s).loState = s.loState := by simp [foreignWrite]
@[simp] theorem foreignWrite_logAddr (a : Byte) (b : List Byte) (s : State) : (foreignWrite a b s).logAddr = s.logAddr := by simp [foreignWrite]
@[simp] theorem foreignWrite_done (a : Byte) (b : List Byte) (s : State) : (foreignWrite a b s).done = s.done := by simp [foreignWrite]
@[simp] theorem foreignWrite_err (a : Byte) (b : List Byte) (s : State) : (foreignWrite a b s).err = s.err := by simp [foreignWrite]
@[simp] theorem foreignWrite_dev (a : Byte) (b : List Byte) (s : State) : (foreignWrite a b s).dev = s.dev := by simp [foreignWrite]
@[simp] theorem foreignWrite_requests (a : Byte) (b : List Byte) (s : State) : (foreignWrite a b s).requests = s.requests := by simp [foreignWrite]
@[simp] theorem foreignWrite_script (a : Byte) (b : List Byte) (s : State) : (foreignWrite a b s).script = s.script := by simp [foreignWrite]
@[simp] theorem foreignWrite_busCalls (a : Byte) (b : List Byte) (s : State) : (foreignWrite a b s).busCalls = s.busCalls := by simp [foreignWrite]
@[simp] theorem foreignWrite_samples (a : Byte) (b : List Byte) (s : State) : (foreignWrite a b s).samples = s.samples := by simp [foreignWrite]
@[simp] theorem foreignWrite_programs (a : Byte) (b : List Byte) (s : State) : (foreignWrite a b s).programs = s.programs := by simp [foreignWrite]

/-! ## foreignRead -/

@[simp] theorem foreignRead_cfg (s : State) : (foreignRead s).cfg = s.cfg := by simp [foreignRead]
@[simp] theorem foreignRead_scState (s : State) : (foreignRead s).scState = s.scState := by simp [foreignRead]
@[simp] theorem foreignRead_sampleHi (s : State) : (foreignRead s).sampleHi = s.sampleHi := by simp [foreignRead]
@[simp] theorem foreignRead_sampleLo (s : State) : (foreignRead s).sampleLo = s.sampleLo := by simp [foreignRead]
@[simp] theorem foreignRead_raw12 (s : State) : (foreignRead s).raw12 = s.raw12 := by simp [foreignRead]
@[simp] theorem foreignRead_mwState (s : State) : (foreignRead s).mwState = s.mwState := by simp [foreignRead]
@[simp] theorem foreignRead_pollCnt (s : State) : (foreignRead s).pollCnt = s.pollCnt := by simp [foreignRead]
@[simp] theorem foreignRead_statusByte (s : State) : (foreignRead s).statusByte = s.statusByte := by simp [foreignRead]
@[simp] theorem foreignRead_mrState (s : State) : (foreignRead s).mrState = s.mrState := by simp [foreignRead]
@[simp] theorem foreignRead_rdata (s : State) : (foreignRead s).rdata = s.rdata := by simp [foreignRead]
@[simp] theorem foreignRead_loState (s : State) : (foreignRead s).loState = s.loState := by simp [foreignRead]
@[simp] theorem foreignRead_logAddr (s : State) : (foreignRead s).logAddr = s.logAddr := by simp [foreignRead]
@[simp] theorem foreignRead_done (s : State) : (foreignRead s).done = s.done := by simp [foreignRead]
@[simp] theorem foreignRead_err (s : State) : (foreignRead s).err = s.err := by simp [foreignRead]
@[simp] theorem foreignRead_dev (s : State) : (foreignRead s).dev = s.dev := by simp [foreignRead]
@[simp] theorem foreignRead_requests (s : State) : (foreignRead s).requests = s.requests := by simp [foreignRead]
@[simp] theorem foreignRead_script (s : State) : (foreignRead s).script = s.script := by simp [foreignRead]
@[simp] theorem foreignRead_busCalls (s : State) : (foreignRead s).busCalls = s.busCalls := by simp [foreignRead]
@[simp] theorem foreignRead_programs (s : State) : (foreignRead s).programs = s.programs := by simp [foreignRead]

/-! ## strangeWrite -/

@[simp] theorem strangeWrite_cfg (a : Byte) (b : List Byte) (s : State) : (strangeWrite a b s).cfg = s.cfg := by simp [strangeWrite]
@[simp] theorem strangeWrite_scState (a : Byte) (b : List Byte) (s : State) : (strangeWrite a b s).scState = s.scState := by simp [strangeWrite]
@[simp] theorem strangeWrite_sampleHi (a : Byte) (b : List Byte) (s : State) : (strangeWrite a b s).sampleHi = s.sampleHi := by simp [strangeWrite]
@[simp] theorem strangeWrite_sampleLo (a : Byte) (b : List Byte) (s : State) : (strangeWrite a b s).sampleLo = s.sampleLo := by simp [strangeWrite]
@[simp] theorem strangeWrite_raw12 (a : Byte) (b : List Byte) (s : State) : (strangeWrite a b s).raw12 = s.raw12 := by simp [strangeWrite]
@[simp] theorem strangeWrite_mwState (a : Byte) (b : List Byte) (s : State) : (strangeWrite a b s).mwState = s.mwState := by simp [strangeWrite]
@[simp] theorem strangeWrite_pollCnt (a : Byte) (b : List Byte) (s : State) : (strangeWrite a b s).pollCnt = s.pollCnt := by simp [strangeWrite]
@[simp] theorem strangeWrite_statusByte (a : Byte) (b : List Byte) (s : State) : (strangeWrite a b s).statusByte = s.statusByte := by simp [strangeWrite]
@[simp] theorem strangeWrite_mrState (a : Byte) (b : List Byte) (s : State) : (strangeWrite a b s).mrState = s.mrState := by simp [strangeWrite]
@[simp] theorem strangeWrite_rdata (a : Byte) (b : List Byte) (s : State) : (strangeWrite a b s).rdata = s.rdata := by simp [strangeWrite]
@[simp] theorem strangeWrite_loState (a : Byte) (b : List Byte) (s : State) : (strangeWrite a b s).loState = s.loState := by simp [strangeWrite]
@[simp] theorem strangeWrite_logAddr (a : Byte) (b : List Byte) (s : State) : (strangeWrite a b s).logAddr = s.logAddr := by simp [strangeWrite]
@[simp] theorem strangeWrite_done (a : Byte) (b : List Byte) (s : State) : (strangeWrite a b s).done = s.done := by simp [strangeWrite]
@[simp] theorem strangeWrite_err (a : Byte) (b : List Byte) (s : State) : (strangeWrite a b s).err = s.err := by simp [strangeWrite]
@[simp] theorem strangeWrite_dev (a : Byte) (b : List Byte) (s : State) : (strangeWrite a b s).dev = s.dev := by simp [strangeWrite]
@[simp] theorem strangeWrite_requests (a : Byte) (b : List Byte) (s : State) : (strangeWrite a b s).requests = s.requests := by simp [strangeWrite]
@[simp] theorem strangeWrite_script (a : Byte) (b : List Byte) (s : State) : (strangeWrite a b s).script = s.script := by simp [strangeWrite]
@[simp] theorem strangeWrite_busCalls (a : Byte) (b : List Byte) (s : State) : (strangeWrite a b s).busCalls = s.busCalls := by simp [strangeWrite]
@[simp] theorem strangeWrite_samples (a : Byte) (b : List Byte) (s : State) : (strangeWrite a b s).samples = s.samples := by simp [strangeWrite]
@[simp] theorem strangeWrite_programs (a : Byte) (b : List Byte) (s : State) : (strangeWrite a b s).programs = s.programs := by simp [strangeWrite]

/-! ## strangeRead -/

@[simp] theorem strangeRead_cfg (a : Byte) (n : Nat) (s : State) : (strangeRead a n s).cfg = s.cfg := by simp [strangeRead]
@[simp] theorem strangeRead_scState (a : Byte) (n : Nat) (s : State) : (strangeRead a n s).scState = s.scState := by simp [strangeRead]
@[simp] theorem strangeRead_sampleHi (a : Byte) (n : Nat) (s : State) : (strangeRead a n s).sampleHi = s.sampleHi := by simp [strangeRead]
@[simp] theorem strangeRead_sampleLo (a : Byte) (n : Nat) (s : State) : (strangeRead a n s).sampleLo = s.sampleLo := by simp [strangeRead]
@[simp] theorem strangeRead_raw12 (a : Byte) (n : Nat) (s : State) : (strangeRead a n s).raw12 = s.raw12 := by simp [strangeRead]
@[simp] theorem strangeRead_mwState (a : Byte) (n : Nat) (s : State) : (strangeRead a n s).mwState = s.mwState := by simp [strangeRead]
@[simp] theorem strangeRead_pollCnt (a : Byte) (n : Nat) (s : State) : (strangeRead a n s).pollCnt = s.pollCnt := by simp [strangeRead]
@[simp] theorem strangeRead_statusByte (a : Byte) (n : Nat) (s : State) : (strangeRead a n s).statusByte = s.statusByte := by simp [strangeRead]
@[simp] theorem strangeRead_mrState (a : Byte) (n : Nat) (s : State) : (strangeRead a n s).mrState = s.mrState := by simp [strangeRead]
@[simp] theorem strangeRead_rdata (a : Byte) (n : Nat) (s : State) : (strangeRead a n s).rdata = s.rdata := by simp [strangeRead]
@[simp] theorem strangeRead_loState (a : Byte) (n : Nat) (s : State) : (strangeRead a n s).loState = s.loState := by simp [strangeRead]
@[simp] theorem strangeRead_logAddr (a : Byte) (n : Nat) (s : State) : (strangeRead a n s).logAddr = s.logAddr := by simp [strangeRead]
@[simp] theorem strangeRead_done (a : Byte) (n : Nat) (s : State) : (strangeRead a n s).done = s.done := by simp [strangeRead]
@[simp] theorem strangeRead_err (a : Byte) (n : Nat) (s : State) : (strangeRead a n s).err = s.err := by simp [strangeRead]
@[simp] theorem strangeRead_dev (a : Byte) (n : Nat) (s : State) : (strangeRead a n s).dev = s.dev := by simp [strangeRead]
@[simp] theorem strangeRead_requests (a : Byte) (n : Nat) (s : State) : (strangeRead a n s).requests = s.requests := by simp [strangeRead]
@[simp] theorem strangeRead_script (a : Byte) (n : Nat) (s : State) : (strangeRead a n s).script = s.script := by simp [strangeRead]
@[simp] theorem strangeRead_busCalls (a : Byte) (n : Nat) (s : State) : (strangeRead a n s).busCalls = s.busCalls := by simp [strangeRead]
@[simp] theorem strangeRead_samples (a : Byte) (n : Nat) (s : State) : (strangeRead a n s).samples = s.samples := by simp [strangeRead]
@[simp] theorem strangeRead_programs (a : Byte) (n : Nat) (s : State) : (strangeRead a n s).programs = s.programs := by simp [strangeRead]

/-! ## SC.RESET -/

@[simp] theorem scReset_cfg (s : State) : (scReset s).cfg = s.cfg := by simp [scReset]
@[simp] theorem scReset_scState (s : State) : (scReset s).scState = s.scState := by simp [scReset]
@[simp] theorem scReset_sampleHi (s : State) : (scReset s).sampleHi = s.sampleHi := by simp [scReset]
@[simp] theorem scReset_sampleLo (s : State) : (scReset s).sampleLo = s.sampleLo := by simp [scReset]
@[simp] theorem scReset_raw12 (s : State) : (scReset s).raw12 = s.raw12 := by simp [scReset]
@[simp] theorem scReset_mwState (s : State) : (scReset s).mwState = s.mwState := by simp [scReset]
@[simp] theorem scReset_pollCnt (s : State) : (scReset s).pollCnt = s.pollCnt := by simp [scReset]
@[simp] theorem scReset_statusByte (s : State) : (scReset s).statusByte = s.statusByte := by simp [scReset]
@[simp] theorem scReset_mrState (s : State) : (scReset s).mrState = s.mrState := by simp [scReset]
@[simp] theorem scReset_rdata (s : State) : (scReset s).rdata = s.rdata := by simp [scReset]
@[simp] theorem scReset_loState (s : State) : (scReset s).loState = s.loState := by simp [scReset]
@[simp] theorem scReset_logAddr (s : State) : (scReset s).logAddr = s.logAddr := by simp [scReset]
@[simp] theorem scReset_done (s : State) : (scReset s).done = s.done := by simp [scReset]
@[simp] theorem scReset_dev (s : State) : (scReset s).dev = s.dev := by simp [scReset]
@[simp] theorem scReset_requests (s : State) : (scReset s).requests = s.requests := by simp [scReset]
@[simp] theorem scReset_script (s : State) : (scReset s).script = s.script := by simp [scReset]
@[simp] theorem scReset_samples (s : State) : (scReset s).samples = s.samples := by simp [scReset]
@[simp] theorem scReset_programs (s : State) : (scReset s).programs = s.programs := by simp [scReset]

/-! ## SC.CONFIG -/

@[simp] theorem scConfig_cfg (s : State) : (scConfig s).cfg = s.cfg := by simp [scConfig]
@[simp] theorem scConfig_scState (s : State) : (scConfig s).scState = s.scState := by simp [scConfig]
@[simp] theorem scConfig_sampleHi (s : State) : (scConfig s).sampleHi = s.sampleHi := by simp [scConfig]
@[simp] theorem scConfig_sampleLo (s : State) : (scConfig s).sampleLo = s.sampleLo := by simp [scConfig]
@[simp] theorem scConfig_raw12 (s : State) : (scConfig s).raw12 = s.raw12 := by simp [scConfig]
@[simp] theorem scConfig_mwState (s : State) : (scConfig s).mwState = s.mwState := by simp [scConfig]
@[simp] theorem scConfig_pollCnt (s : State) : (scConfig s).pollCnt = s.pollCnt := by simp [scConfig]
@[simp] theorem scConfig_statusByte (s : State) : (scConfig s).statusByte = s.statusByte := by simp [scConfig]
@[simp] theorem scConfig_mrState (s : State) : (scConfig s).mrState = s.mrState := by simp [scConfig]
@[simp] theorem scConfig_rdata (s : State) : (scConfig s).rdata = s.rdata := by simp [scConfig]
@[simp] theorem scConfig_loState (s : State) : (scConfig s).loState = s.loState := by simp [scConfig]
@[simp] theorem scConfig_logAddr (s : State) : (scConfig s).logAddr = s.logAddr := by simp [scConfig]
@[simp] theorem scConfig_done (s : State) : (scConfig s).done = s.done := by simp [scConfig]
@[simp] theorem scConfig_dev (s : State) : (scConfig s).dev = s.dev := by simp [scConfig]
@[simp] theorem scConfig_requests (s : State) : (scConfig s).requests = s.requests := by simp [scConfig]
@[simp] theorem scConfig_script (s : State) : (scConfig s).script = s.script := by simp [scConfig]
@[simp] theorem scConfig_samples (s : State) : (scConfig s).samples = s.samples := by simp [scConfig]
@[simp] theorem scConfig_programs (s : State) : (scConfig s).programs = s.programs := by simp [scConfig]

/-! ## takeSample -/

@[simp] theorem takeSample_cfg (r : BusResult) (b : Byte × Byte) (s : State) : (takeSample r b s).cfg = s.cfg := by cases r <;> rfl
@[simp] theorem takeSample_scState (r : BusResult) (b : Byte × Byte) (s : State) : (takeSample r b s).scState = s.scState := by cases r <;> rfl
@[simp] theorem takeSample_raw12 (r : BusResult) (b : Byte × Byte) (s : State) : (takeSample r b s).raw12 = s.raw12 := by cases r <;> rfl
@[simp] theorem takeSample_mwState (r : BusResult) (b : Byte × Byte) (s : State) : (takeSample r b s).mwState = s.mwState := by cases r <;> rfl
@[simp] theorem takeSample_pollCnt (r : BusResult) (b : Byte × Byte) (s : State) : (takeSample r b s).pollCnt = s.pollCnt := by cases r <;> rfl
@[simp] theorem takeSample_statusByte (r : BusResult) (b : Byte × Byte) (s : State) : (takeSample r b s).statusByte = s.statusByte := by cases r <;> rfl
@[simp] theorem takeSample_mrState (r : BusResult) (b : Byte × Byte) (s : State) : (takeSample r b s).mrState = s.mrState := by cases r <;> rfl
@[simp] theorem takeSample_rdata (r : BusResult) (b : Byte × Byte) (s : State) : (takeSample r b s).rdata = s.rdata := by cases r <;> rfl
@[simp] theorem takeSample_loState (r : BusResult) (b : Byte × Byte) (s : State) : (takeSample r b s).loState = s.loState := by cases r <;> rfl
@[simp] theorem takeSample_logAddr (r : BusResult) (b : Byte × Byte) (s : State) : (takeSample r b s).logAddr = s.logAddr := by cases r <;> rfl
@[simp] theorem takeSample_done (r : BusResult) (b : Byte × Byte) (s : State) : (takeSample r b s).done = s.done := by cases r <;> rfl
@[simp] theorem takeSample_dev (r : BusResult) (b : Byte × Byte) (s : State) : (takeSample r b s).dev = s.dev := by cases r <;> rfl
@[simp] theorem takeSample_sensor (r : BusResult) (b : Byte × Byte) (s : State) : (takeSample r b s).sensor = s.sensor := by cases r <;> rfl
@[simp] theorem takeSample_requests (r : BusResult) (b : Byte × Byte) (s : State) : (takeSample r b s).requests = s.requests := by cases r <;> rfl
@[simp] theorem takeSample_script (r : BusResult) (b : Byte × Byte) (s : State) : (takeSample r b s).script = s.script := by cases r <;> rfl
@[simp] theorem takeSample_busCalls (r : BusResult) (b : Byte × Byte) (s : State) : (takeSample r b s).busCalls = s.busCalls := by cases r <;> rfl
@[simp] theorem takeSample_samples (r : BusResult) (b : Byte × Byte) (s : State) : (takeSample r b s).samples = s.samples := by cases r <;> rfl
@[simp] theorem takeSample_programs (r : BusResult) (b : Byte × Byte) (s : State) : (takeSample r b s).programs = s.programs := by cases r <;> rfl

/-! ## noteDegraded -/

@[simp] theorem noteDegraded_cfg (r1 r3 r4 : BusResult) (s : State) : (noteDegraded r1 r3 r4 s).cfg = s.cfg := by unfold noteDegraded; split <;> rfl
@[simp] theorem noteDegraded_scState (r1 r3 r4 : BusResult) (s : State) : (noteDegraded r1 r3 r4 s).scState = s.scState := by unfold noteDegraded; split <;> rfl
@[simp] theorem noteDegraded_sampleHi (r1 r3 r4 : BusResult) (s : State) : (noteDegraded r1 r3 r4 s).sampleHi = s.sampleHi := by unfold noteDegraded; split <;> rfl
@[simp] theorem noteDegraded_sampleLo (r1 r3 r4 : BusResult) (s : State) : (noteDegraded r1 r3 r4 s).sampleLo = s.sampleLo := by unfold noteDegraded; split <;> rfl
@[simp] theorem noteDegraded_raw12 (r1 r3 r4 : BusResult) (s : State) : (noteDegraded r1 r3 r4 s).raw12 = s.raw12 := by unfold noteDegraded; split <;> rfl
@[simp] theorem noteDegraded_mwState (r1 r3 r4 : BusResult) (s : State) : (noteDegraded r1 r3 r4 s).mwState = s.mwState := by unfold noteDegraded; split <;> rfl
@[simp] theorem noteDegraded_pollCnt (r1 r3 r4 : BusResult) (s : State) : (noteDegraded r1 r3 r4 s).pollCnt = s.pollCnt := by unfold noteDegraded; split <;> rfl
@[simp] theorem noteDegraded_statusByte (r1 r3 r4 : BusResult) (s : State) : (noteDegraded r1 r3 r4 s).statusByte = s.statusByte := by unfold noteDegraded; split <;> rfl
@[simp] theorem noteDegraded_mrState (r1 r3 r4 : BusResult) (s : State) : (noteDegraded r1 r3 r4 s).mrState = s.mrState := by unfold noteDegraded; split <;> rfl
@[simp] theorem noteDegraded_rdata (r1 r3 r4 : BusResult) (s : State) : (noteDegraded r1 r3 r4 s).rdata = s.rdata := by unfold noteDegraded; split <;> rfl
@[simp] theorem noteDegraded_loState (r1 r3 r4 : BusResult) (s : State) : (noteDegraded r1 r3 r4 s).loState = s.loState := by unfold noteDegraded; split <;> rfl
@[simp] theorem noteDegraded_logAddr (r1 r3 r4 : BusResult) (s : State) : (noteDegraded r1 r3 r4 s).logAddr = s.logAddr := by unfold noteDegraded; split <;> rfl
@[simp] theorem noteDegraded_done (r1 r3 r4 : BusResult) (s : State) : (noteDegraded r1 r3 r4 s).done = s.done := by unfold noteDegraded; split <;> rfl
@[simp] theorem noteDegraded_dev (r1 r3 r4 : BusResult) (s : State) : (noteDegraded r1 r3 r4 s).dev = s.dev := by unfold noteDegraded; split <;> rfl
@[simp] theorem noteDegraded_sensor (r1 r3 r4 : BusResult) (s : State) : (noteDegraded r1 r3 r4 s).sensor = s.sensor := by unfold noteDegraded; split <;> rfl
@[simp] theorem noteDegraded_requests (r1 r3 r4 : BusResult) (s : State) : (noteDegraded r1 r3 r4 s).requests = s.requests := by unfold noteDegraded; split <;> rfl
@[simp] theorem noteDegraded_script (r1 r3 r4 : BusResult) (s : State) : (noteDegraded r1 r3 r4 s).script = s.script := by unfold noteDegraded; split <;> rfl
@[simp] theorem noteDegraded_busCalls (r1 r3 r4 : BusResult) (s : State) : (noteDegraded r1 r3 r4 s).busCalls = s.busCalls := by unfold noteDegraded; split <;> rfl
@[simp] theorem noteDegraded_samples (r1 r3 r4 : BusResult) (s : State) : (noteDegraded r1 r3 r4 s).samples = s.samples := by unfold noteDegraded; split <;> rfl
@[simp] theorem noteDegraded_programs (r1 r3 r4 : BusResult) (s : State) : (noteDegraded r1 r3 r4 s).programs = s.programs := by unfold noteDegraded; split <;> rfl
@[simp] theorem noteDegraded_draws (r1 r3 r4 : BusResult) (s : State) : (noteDegraded r1 r3 r4 s).draws = s.draws := by unfold noteDegraded; split <;> rfl

/-! ## SC.READ -/

@[simp] theorem scRead_cfg (s : State) : (scRead s).cfg = s.cfg := by simp [scRead]
@[simp] theorem scRead_mwState (s : State) : (scRead s).mwState = s.mwState := by simp [scRead]
@[simp] theorem scRead_pollCnt (s : State) : (scRead s).pollCnt = s.pollCnt := by simp [scRead]
@[simp] theorem scRead_statusByte (s : State) : (scRead s).statusByte = s.statusByte := by simp [scRead]
@[simp] theorem scRead_mrState (s : State) : (scRead s).mrState = s.mrState := by simp [scRead]
@[simp] theorem scRead_rdata (s : State) : (scRead s).rdata = s.rdata := by simp [scRead]
@[simp] theorem scRead_loState (s : State) : (scRead s).loState = s.loState := by simp [scRead]
@[simp] theorem scRead_logAddr (s : State) : (scRead s).logAddr = s.logAddr := by simp [scRead]
@[simp] theorem scRead_done (s : State) : (scRead s).done = s.done := by simp [scRead]
@[simp] theorem scRead_dev (s : State) : (scRead s).dev = s.dev := by simp [scRead]
@[simp] theorem scRead_requests (s : State) : (scRead s).requests = s.requests := by simp [scRead]
@[simp] theorem scRead_script (s : State) : (scRead s).script = s.script := by simp [scRead]
@[simp] theorem scRead_programs (s : State) : (scRead s).programs = s.programs := by simp [scRead]

/-! ## MW.WREN -/

@[simp] theorem mwWren_cfg (m : MwState) (s : State) : (mwWren m s).cfg = s.cfg := by simp [mwWren]
@[simp] theorem mwWren_scState (m : MwState) (s : State) : (mwWren m s).scState = s.scState := by simp [mwWren]
@[simp] theorem mwWren_sampleHi (m : MwState) (s : State) : (mwWren m s).sampleHi = s.sampleHi := by simp [mwWren]
@[simp] theorem mwWren_sampleLo (m : MwState) (s : State) : (mwWren m s).sampleLo = s.sampleLo := by simp [mwWren]
@[simp] theorem mwWren_raw12 (m : MwState) (s : State) : (mwWren m s).raw12 = s.raw12 := by simp [mwWren]
@[simp] theorem mwWren_pollCnt (m : MwState) (s : State) : (mwWren m s).pollCnt = s.pollCnt := by simp [mwWren]
@[simp] theorem mwWren_statusByte (m : MwState) (s : State) : (mwWren m s).statusByte = s.statusByte := by simp [mwWren]
@[simp] theorem mwWren_mrState (m : MwState) (s : State) : (mwWren m s).mrState = s.mrState := by simp [mwWren]
@[simp] theorem mwWren_rdata (m : MwState) (s : State) : (mwWren m s).rdata = s.rdata := by simp [mwWren]
@[simp] theorem mwWren_loState (m : MwState) (s : State) : (mwWren m s).loState = s.loState := by simp [mwWren]
@[simp] theorem mwWren_logAddr (m : MwState) (s : State) : (mwWren m s).logAddr = s.logAddr := by simp [mwWren]
@[simp] theorem mwWren_done (m : MwState) (s : State) : (mwWren m s).done = s.done := by simp [mwWren]
@[simp] theorem mwWren_sensor (m : MwState) (s : State) : (mwWren m s).sensor = s.sensor := by simp [mwWren]
@[simp] theorem mwWren_requests (m : MwState) (s : State) : (mwWren m s).requests = s.requests := by simp [mwWren]
@[simp] theorem mwWren_script (m : MwState) (s : State) : (mwWren m s).script = s.script := by simp [mwWren]
@[simp] theorem mwWren_samples (m : MwState) (s : State) : (mwWren m s).samples = s.samples := by simp [mwWren]

/-! ## takeStatus -/

@[simp] theorem takeStatus_cfg (r : BusResult) (b : List Byte) (s : State) : (takeStatus r b s).cfg = s.cfg := by unfold takeStatus; split <;> rfl
@[simp] theorem takeStatus_scState (r : BusResult) (b : List Byte) (s : State) : (takeStatus r b s).scState = s.scState := by unfold takeStatus; split <;> rfl
@[simp] theorem takeStatus_sampleHi (r : BusResult) (b : List Byte) (s : State) : (takeStatus r b s).sampleHi = s.sampleHi := by unfold takeStatus; split <;> rfl
@[simp] theorem takeStatus_sampleLo (r : BusResult) (b : List Byte) (s : State) : (takeStatus r b s).sampleLo = s.sampleLo := by unfold takeStatus; split <;> rfl
@[simp] theorem takeStatus_raw12 (r : BusResult) (b : List Byte) (s : State) : (takeStatus r b s).raw12 = s.raw12 := by unfold takeStatus; split <;> rfl
@[simp] theorem takeStatus_mrState (r : BusResult) (b : List Byte) (s : State) : (takeStatus r b s).mrState = s.mrState := by unfold takeStatus; split <;> rfl
@[simp] theorem takeStatus_rdata (r : BusResult) (b : List Byte) (s : State) : (takeStatus r b s).rdata = s.rdata := by unfold takeStatus; split <;> rfl
@[simp] theorem takeStatus_loState (r : BusResult) (b : List Byte) (s : State) : (takeStatus r b s).loState = s.loState := by unfold takeStatus; split <;> rfl
@[simp] theorem takeStatus_logAddr (r : BusResult) (b : List Byte) (s : State) : (takeStatus r b s).logAddr = s.logAddr := by unfold takeStatus; split <;> rfl
@[simp] theorem takeStatus_done (r : BusResult) (b : List Byte) (s : State) : (takeStatus r b s).done = s.done := by unfold takeStatus; split <;> rfl
@[simp] theorem takeStatus_err (r : BusResult) (b : List Byte) (s : State) : (takeStatus r b s).err = s.err := by unfold takeStatus; split <;> rfl
@[simp] theorem takeStatus_dev (r : BusResult) (b : List Byte) (s : State) : (takeStatus r b s).dev = s.dev := by unfold takeStatus; split <;> rfl
@[simp] theorem takeStatus_sensor (r : BusResult) (b : List Byte) (s : State) : (takeStatus r b s).sensor = s.sensor := by unfold takeStatus; split <;> rfl
@[simp] theorem takeStatus_requests (r : BusResult) (b : List Byte) (s : State) : (takeStatus r b s).requests = s.requests := by unfold takeStatus; split <;> rfl
@[simp] theorem takeStatus_trace (r : BusResult) (b : List Byte) (s : State) : (takeStatus r b s).trace = s.trace := by unfold takeStatus; split <;> rfl
@[simp] theorem takeStatus_script (r : BusResult) (b : List Byte) (s : State) : (takeStatus r b s).script = s.script := by unfold takeStatus; split <;> rfl
@[simp] theorem takeStatus_busCalls (r : BusResult) (b : List Byte) (s : State) : (takeStatus r b s).busCalls = s.busCalls := by unfold takeStatus; split <;> rfl
@[simp] theorem takeStatus_samples (r : BusResult) (b : List Byte) (s : State) : (takeStatus r b s).samples = s.samples := by unfold takeStatus; split <;> rfl
@[simp] theorem takeStatus_programs (r : BusResult) (b : List Byte) (s : State) : (takeStatus r b s).programs = s.programs := by unfold takeStatus; split <;> rfl
@[simp] theorem takeStatus_draws (r : BusResult) (b : List Byte) (s : State) : (takeStatus r b s).draws = s.draws := by unfold takeStatus; split <;> rfl

/-! ## pollPass -/

@[simp] theorem pollPass_cfg (s : State) : (pollPass s).cfg = s.cfg := by unfold pollPass; split <;> simp
@[simp] theorem pollPass_scState (s : State) : (pollPass s).scState = s.scState := by unfold pollPass; split <;> simp
@[simp] theorem pollPass_sampleHi (s : State) : (pollPass s).sampleHi = s.sampleHi := by unfold pollPass; split <;> simp
@[simp] theorem pollPass_sampleLo (s : State) : (pollPass s).sampleLo = s.sampleLo := by unfold pollPass; split <;> simp
@[simp] theorem pollPass_raw12 (s : State) : (pollPass s).raw12 = s.raw12 := by unfold pollPass; split <;> simp
@[simp] theorem pollPass_mrState (s : State) : (pollPass s).mrState = s.mrState := by unfold pollPass; split <;> simp
@[simp] theorem pollPass_rdata (s : State) : (pollPass s).rdata = s.rdata := by unfold pollPass; split <;> simp
@[simp] theorem pollPass_loState (s : State) : (pollPass s).loState = s.loState := by unfold pollPass; split <;> simp
@[simp] theorem pollPass_logAddr (s : State) : (pollPass s).logAddr = s.logAddr := by unfold pollPass; split <;> simp
@[simp] theorem pollPass_done (s : State) : (pollPass s).done = s.done := by unfold pollPass; split <;> simp
@[simp] theorem pollPass_sensor (s : State) : (pollPass s).sensor = s.sensor := by unfold pollPass; split <;> simp
@[simp] theorem pollPass_requests (s : State) : (pollPass s).requests = s.requests := by unfold pollPass; split <;> simp
@[simp] theorem pollPass_script (s : State) : (pollPass s).script = s.script := by unfold pollPass; split <;> simp
@[simp] theorem pollPass_samples (s : State) : (pollPass s).samples = s.samples := by unfold pollPass; split <;> simp

/-! ## MW.WAITRDY -/

@[simp] theorem waitRdy_cfg (s : State) : (waitRdy s).cfg = s.cfg := by simp [waitRdy]
@[simp] theorem waitRdy_scState (s : State) : (waitRdy s).scState = s.scState := by simp [waitRdy]
@[simp] theorem waitRdy_sampleHi (s : State) : (waitRdy s).sampleHi = s.sampleHi := by simp [waitRdy]
@[simp] theorem waitRdy_sampleLo (s : State) : (waitRdy s).sampleLo = s.sampleLo := by simp [waitRdy]
@[simp] theorem waitRdy_raw12 (s : State) : (waitRdy s).raw12 = s.raw12 := by simp [waitRdy]
@[simp] theorem waitRdy_mrState (s : State) : (waitRdy s).mrState = s.mrState := by simp [waitRdy]
@[simp] theorem waitRdy_rdata (s : State) : (waitRdy s).rdata = s.rdata := by simp [waitRdy]
@[simp] theorem waitRdy_loState (s : State) : (waitRdy s).loState = s.loState := by simp [waitRdy]
@[simp] theorem waitRdy_logAddr (s : State) : (waitRdy s).logAddr = s.logAddr := by simp [waitRdy]
@[simp] theorem waitRdy_done (s : State) : (waitRdy s).done = s.done := by simp [waitRdy]
@[simp] theorem waitRdy_sensor (s : State) : (waitRdy s).sensor = s.sensor := by simp [waitRdy]
@[simp] theorem waitRdy_requests (s : State) : (waitRdy s).requests = s.requests := by simp [waitRdy]
@[simp] theorem waitRdy_script (s : State) : (waitRdy s).script = s.script := by simp [waitRdy]
@[simp] theorem waitRdy_samples (s : State) : (waitRdy s).samples = s.samples := by simp [waitRdy]

/-! ## MW.PAGEWRITE -/

@[simp] theorem pageWrite_cfg (a : StorageAddr) (n : Nat) (d : List Byte) (s : State) : (pageWrite a n d s).cfg = s.cfg := by unfold pageWrite; split_ifs <;> simp
@[simp] theorem pageWrite_scState (a : StorageAddr) (n : Nat) (d : List Byte) (s : State) : (pageWrite a n d s).scState = s.scState := by unfold pageWrite; split_ifs <;> simp
@[simp] theorem pageWrite_sampleHi (a : StorageAddr) (n : Nat) (d : List Byte) (s : State) : (pageWrite a n d s).sampleHi = s.sampleHi := by unfold pageWrite; split_ifs <;> simp
@[simp] theorem pageWrite_sampleLo (a : StorageAddr) (n : Nat) (d : List Byte) (s : State) : (pageWrite a n d s).sampleLo = s.sampleLo := by unfold pageWrite; split_ifs <;> simp
@[simp] theorem pageWrite_raw12 (a : StorageAddr) (n : Nat) (d : List Byte) (s : State) : (pageWrite a n d s).raw12 = s.raw12 := by unfold pageWrite; split_ifs <;> simp
@[simp] theorem pageWrite_mrState (a : StorageAddr) (n : Nat) (d : List Byte) (s : State) : (pageWrite a n d s).mrState = s.mrState := by unfold pageWrite; split_ifs <;> simp
@[simp] theorem pageWrite_rdata (a : StorageAddr) (n : Nat) (d : List Byte) (s : State) : (pageWrite a n d s).rdata = s.rdata := by unfold pageWrite; split_ifs <;> simp
@[simp] theorem pageWrite_loState (a : StorageAddr) (n : Nat) (d : List Byte) (s : State) : (pageWrite a n d s).loState = s.loState := by unfold pageWrite; split_ifs <;> simp
@[simp] theorem pageWrite_logAddr (a : StorageAddr) (n : Nat) (d : List Byte) (s : State) : (pageWrite a n d s).logAddr = s.logAddr := by unfold pageWrite; split_ifs <;> simp
@[simp] theorem pageWrite_done (a : StorageAddr) (n : Nat) (d : List Byte) (s : State) : (pageWrite a n d s).done = s.done := by unfold pageWrite; split_ifs <;> simp
@[simp] theorem pageWrite_sensor (a : StorageAddr) (n : Nat) (d : List Byte) (s : State) : (pageWrite a n d s).sensor = s.sensor := by unfold pageWrite; split_ifs <;> simp
@[simp] theorem pageWrite_requests (a : StorageAddr) (n : Nat) (d : List Byte) (s : State) : (pageWrite a n d s).requests = s.requests := by unfold pageWrite; split_ifs <;> simp
@[simp] theorem pageWrite_script (a : StorageAddr) (n : Nat) (d : List Byte) (s : State) : (pageWrite a n d s).script = s.script := by unfold pageWrite; split_ifs <;> simp
@[simp] theorem pageWrite_samples (a : StorageAddr) (n : Nat) (d : List Byte) (s : State) : (pageWrite a n d s).samples = s.samples := by unfold pageWrite; split_ifs <;> simp

/-! ## takeData -/

@[simp] theorem takeData_cfg (r : BusResult) (b : List Byte) (n : Nat) (s : State) : (takeData r b n s).cfg = s.cfg := by cases r <;> rfl
@[simp] theorem takeData_scState (r : BusResult) (b : List Byte) (n : Nat) (s : State) : (takeData r b n s).scState = s.scState := by cases r <;> rfl
@[simp] theorem takeData_sampleHi (r : BusResult) (b : List Byte) (n : Nat) (s : State) : (takeData r b n s).sampleHi = s.sampleHi := by cases r <;> rfl
@[simp] theorem takeData_sampleLo (r : BusResult) (b : List Byte) (n : Nat) (s : State) : (takeData r b n s).sampleLo = s.sampleLo := by cases r <;> rfl
@[simp] theorem takeData_raw12 (r : BusResult) (b : List Byte) (n : Nat) (s : State) : (takeData r b n s).raw12 = s.raw12 := by cases r <;> rfl
@[simp] theorem takeData_mwState (r : BusResult) (b : List Byte) (n : Nat) (s : State) : (takeData r b n s).mwState = s.mwState := by cases r <;> rfl
@[simp] theorem takeData_pollCnt (r : BusResult) (b : List Byte) (n : Nat) (s : State) : (takeData r b n s).pollCnt = s.pollCnt := by cases r <;> rfl
@[simp] theorem takeData_statusByte (r : BusResult) (b : List Byte) (n : Nat) (s : State) : (takeData r b n s).statusByte = s.statusByte := by cases r <;> rfl
@[simp] theorem takeData_mrState (r : BusResult) (b : List Byte) (n : Nat) (s : State) : (takeData r b n s).mrState = s.mrState := by cases r <;> rfl
@[simp] theorem takeData_loState (r : BusResult) (b : List Byte) (n : Nat) (s : State) : (takeData r b n s).loState = s.loState := by cases r <;> rfl
@[simp] theorem takeData_logAddr (r : BusResult) (b : List Byte) (n : Nat) (s : State) : (takeData r b n s).logAddr = s.logAddr := by cases r <;> rfl
@[simp] theorem takeData_done (r : BusResult) (b : List Byte) (n : Nat) (s : State) : (takeData r b n s).done = s.done := by cases r <;> rfl
@[simp] theorem takeData_err (r : BusResult) (b : List Byte) (n : Nat) (s : State) : (takeData r b n s).err = s.err := by cases r <;> rfl
@[simp] theorem takeData_dev (r : BusResult) (b : List Byte) (n : Nat) (s : State) : (takeData r b n s).dev = s.dev := by cases r <;> rfl
@[simp] theorem takeData_sensor (r : BusResult) (b : List Byte) (n : Nat) (s : State) : (takeData r b n s).sensor = s.sensor := by cases r <;> rfl
@[simp] theorem takeData_requests (r : BusResult) (b : List Byte) (n : Nat) (s : State) : (takeData r b n s).requests = s.requests := by cases r <;> rfl
@[simp] theorem takeData_trace (r : BusResult) (b : List Byte) (n : Nat) (s : State) : (takeData r b n s).trace = s.trace := by cases r <;> rfl
@[simp] theorem takeData_script (r : BusResult) (b : List Byte) (n : Nat) (s : State) : (takeData r b n s).script = s.script := by cases r <;> rfl
@[simp] theorem takeData_busCalls (r : BusResult) (b : List Byte) (n : Nat) (s : State) : (takeData r b n s).busCalls = s.busCalls := by cases r <;> rfl
@[simp] theorem takeData_samples (r : BusResult) (b : List Byte) (n : Nat) (s : State) : (takeData r b n s).samples = s.samples := by cases r <;> rfl
@[simp] theorem takeData_programs (r : BusResult) (b : List Byte) (n : Nat) (s : State) : (takeData r b n s).programs = s.programs := by cases r <;> rfl

/-! ## MR.READ -/

@[simp] theorem memoryRead_cfg (a : StorageAddr) (n : Nat) (s : State) : (memoryRead a n s).cfg = s.cfg := by unfold memoryRead; split <;> simp
@[simp] theorem memoryRead_scState (a : StorageAddr) (n : Nat) (s : State) : (memoryRead a n s).scState = s.scState := by unfold memoryRead; split <;> simp
@[simp] theorem memoryRead_sampleHi (a : StorageAddr) (n : Nat) (s : State) : (memoryRead a n s).sampleHi = s.sampleHi := by unfold memoryRead; split <;> simp
@[simp] theorem memoryRead_sampleLo (a : StorageAddr) (n : Nat) (s : State) : (memoryRead a n s).sampleLo = s.sampleLo := by unfold memoryRead; split <;> simp
@[simp] theorem memoryRead_raw12 (a : StorageAddr) (n : Nat) (s : State) : (memoryRead a n s).raw12 = s.raw12 := by unfold memoryRead; split <;> simp
@[simp] theorem memoryRead_mwState (a : StorageAddr) (n : Nat) (s : State) : (memoryRead a n s).mwState = s.mwState := by unfold memoryRead; split <;> simp
@[simp] theorem memoryRead_pollCnt (a : StorageAddr) (n : Nat) (s : State) : (memoryRead a n s).pollCnt = s.pollCnt := by unfold memoryRead; split <;> simp
@[simp] theorem memoryRead_statusByte (a : StorageAddr) (n : Nat) (s : State) : (memoryRead a n s).statusByte = s.statusByte := by unfold memoryRead; split <;> simp
@[simp] theorem memoryRead_loState (a : StorageAddr) (n : Nat) (s : State) : (memoryRead a n s).loState = s.loState := by unfold memoryRead; split <;> simp
@[simp] theorem memoryRead_logAddr (a : StorageAddr) (n : Nat) (s : State) : (memoryRead a n s).logAddr = s.logAddr := by unfold memoryRead; split <;> simp
@[simp] theorem memoryRead_done (a : StorageAddr) (n : Nat) (s : State) : (memoryRead a n s).done = s.done := by unfold memoryRead; split <;> simp
@[simp] theorem memoryRead_sensor (a : StorageAddr) (n : Nat) (s : State) : (memoryRead a n s).sensor = s.sensor := by unfold memoryRead; split <;> simp
@[simp] theorem memoryRead_requests (a : StorageAddr) (n : Nat) (s : State) : (memoryRead a n s).requests = s.requests := by unfold memoryRead; split <;> simp
@[simp] theorem memoryRead_script (a : StorageAddr) (n : Nat) (s : State) : (memoryRead a n s).script = s.script := by unfold memoryRead; split <;> simp
@[simp] theorem memoryRead_samples (a : StorageAddr) (n : Nat) (s : State) : (memoryRead a n s).samples = s.samples := by unfold memoryRead; split <;> simp

/-! ## afterPersist -/

@[simp] theorem afterPersist_cfg (s : State) : (afterPersist s).cfg = s.cfg := by unfold afterPersist; split_ifs <;> simp
@[simp] theorem afterPersist_scState (s : State) : (afterPersist s).scState = s.scState := by unfold afterPersist; split_ifs <;> simp
@[simp] theorem afterPersist_sampleHi (s : State) : (afterPersist s).sampleHi = s.sampleHi := by unfold afterPersist; split_ifs <;> simp
@[simp] theorem afterPersist_sampleLo (s : State) : (afterPersist s).sampleLo = s.sampleLo := by unfold afterPersist; split_ifs <;> simp
@[simp] theorem afterPersist_raw12 (s : State) : (afterPersist s).raw12 = s.raw12 := by unfold afterPersist; split_ifs <;> simp
@[simp] theorem afterPersist_mwState (s : State) : (afterPersist s).mwState = s.mwState := by unfold afterPersist; split_ifs <;> simp
@[simp] theorem afterPersist_pollCnt (s : State) : (afterPersist s).pollCnt = s.pollCnt := by unfold afterPersist; split_ifs <;> simp
@[simp] theorem afterPersist_statusByte (s : State) : (afterPersist s).statusByte = s.statusByte := by unfold afterPersist; split_ifs <;> simp
@[simp] theorem afterPersist_mrState (s : State) : (afterPersist s).mrState = s.mrState := by unfold afterPersist; split_ifs <;> simp
@[simp] theorem afterPersist_rdata (s : State) : (afterPersist s).rdata = s.rdata := by unfold afterPersist; split_ifs <;> simp
@[simp] theorem afterPersist_logAddr (s : State) : (afterPersist s).logAddr = s.logAddr := by unfold afterPersist; split_ifs <;> simp
@[simp] theorem afterPersist_err (s : State) : (afterPersist s).err = s.err := by unfold afterPersist; split_ifs <;> simp
@[simp] theorem afterPersist_dev (s : State) : (afterPersist s).dev = s.dev := by unfold afterPersist; split_ifs <;> simp
@[simp] theorem afterPersist_sensor (s : State) : (afterPersist s).sensor = s.sensor := by unfold afterPersist; split_ifs <;> simp
@[simp] theorem afterPersist_requests (s : State) : (afterPersist s).requests = s.requests := by unfold afterPersist; split_ifs <;> simp
@[simp] theorem afterPersist_script (s : State) : (afterPersist s).script = s.script := by unfold afterPersist; split_ifs <;> simp
@[simp] theorem afterPersist_busCalls (s : State) : (afterPersist s).busCalls = s.busCalls := by unfold afterPersist; split_ifs <;> simp
@[simp] theorem afterPersist_samples (s : State) : (afterPersist s).samples = s.samples := by unfold afterPersist; split_ifs <;> simp
@[simp] theorem afterPersist_programs (s : State) : (afterPersist s).programs = s.programs := by unfold afterPersist; split_ifs <;> simp
@[simp] theorem afterPersist_draws (s : State) : (afterPersist s).draws = s.draws := by unfold afterPersist; split_ifs <;> simp

end Sys2Proof.Machine
end

