-- ==== Sys2Proof/Laws/Memory.lean ====
section
/-! SUPPORT. Cells and MEM: read after write, and every memory operation keeps the canonical form and the address range. -/

namespace Sys2Proof.Machine

/-! ## Cells -/

theorem Cells.get?_set (a x : Nat) (b : Byte) (m : List Host.Cell) (h : Cells.rising m) :
    Cells.get? x (Cells.set a b m) = if x = a then some b else Cells.get? x m := by
  induction m with
  | nil => simp [Cells.set, Cells.get?, eq_comm]
  | cons c r ih =>
    have hr := List.pairwise_cons.mp h
    by_cases h1 : a < c.1
    · rw [Cells.set, if_pos h1]
      by_cases hx : x = a
      · simp [Cells.get?, hx]
      · simp [Cells.get?, hx, Ne.symm hx]
    · by_cases h2 : a = c.1
      · rw [Cells.set, if_neg h1, if_pos h2]
        by_cases hx : x = a
        · simp [Cells.get?, hx]
        · have hc : c.1 ≠ x := fun e => hx (by rw [h2, e])
          simp [Cells.get?, hx, Ne.symm hx, hc]
      · rw [Cells.set, if_neg h1, if_neg h2]
        simp only [Cells.get?, ih hr.2]
        by_cases hc : c.1 = x
        · have hx : x ≠ a := fun e => h2 (by rw [hc, e])
          simp [hc, hx]
        · simp [hc]

theorem Cells.get?_of_lt (x : Nat) (m : List Host.Cell) (h : ∀ c ∈ m, x < c.1) : Cells.get? x m = none := by
  induction m with
  | nil => rfl
  | cons c r ih =>
    have hc := h c (by simp)
    simp [Cells.get?, Nat.ne_of_gt hc, ih (fun d hd => h d (by simp [hd]))]

theorem Cells.get?_erase (a x : Nat) (m : List Host.Cell) :
    Cells.get? x (Cells.erase a m) = if x = a then none else Cells.get? x m := by
  induction m with
  | nil => simp [Cells.erase, Cells.get?]
  | cons c r ih =>
    unfold Cells.erase at ih ⊢
    by_cases hc : c.1 = a
    · simp only [List.filter_cons, hc, bne_self_eq_false, Bool.false_eq_true, if_false, ih, Cells.get?]
      by_cases hx : x = a
      · simp [hx]
      · simp [hx, Ne.symm hx]
    · have : (c.1 != a) = true := by simpa using hc
      simp only [List.filter_cons, this, if_true, Cells.get?, ih]
      by_cases hx : c.1 = x
      · subst hx; simp [hc]
      · simp [hx]

theorem Cells.mem_set (a : Nat) (b : Byte) (m : List Host.Cell) (c : Host.Cell) (h : c ∈ Cells.set a b m) :
    c = (a, b) ∨ c ∈ m := by
  induction m with
  | nil => simpa [Cells.set] using h
  | cons d r ih =>
    unfold Cells.set at h
    split_ifs at h
    · simpa using h
    · rcases List.mem_cons.mp h with h | h
      · exact .inl h
      · exact .inr (by simp [h])
    · rcases List.mem_cons.mp h with h | h
      · exact .inr (by simp [h])
      · rcases ih h with h | h
        · exact .inl h
        · exact .inr (by simp [h])

theorem Cells.rising_set (a : Nat) (b : Byte) (m : List Host.Cell) (h : Cells.rising m) :
    Cells.rising (Cells.set a b m) := by
  induction m with
  | nil => simp [Cells.set, Cells.rising]
  | cons c r ih =>
    have hr := List.pairwise_cons.mp h
    unfold Cells.set
    split_ifs with h1 h2
    · refine List.pairwise_cons.mpr ⟨fun d hd => ?_, h⟩
      rcases List.mem_cons.mp hd with rfl | hd
      · exact h1
      · exact Nat.lt_trans h1 (hr.1 d hd)
    · exact List.pairwise_cons.mpr ⟨fun d hd => h2 ▸ hr.1 d hd, hr.2⟩
    · refine List.pairwise_cons.mpr ⟨fun d hd => ?_, ih hr.2⟩
      rcases Cells.mem_set a b r d hd with rfl | hd
      · show c.1 < a
        omega
      · exact hr.1 d hd

theorem Cells.below_set (n a : Nat) (b : Byte) (m : List Host.Cell) (ha : a < n) (h : Cells.below n m) :
    Cells.below n (Cells.set a b m) := fun c hc => by
  rcases Cells.mem_set a b m c hc with rfl | hc
  · exact ha
  · exact h c hc

theorem Cells.rising_erase (a : Nat) (m : List Host.Cell) (h : Cells.rising m) : Cells.rising (Cells.erase a m) :=
  List.Pairwise.filter _ h

theorem Cells.below_erase (n a : Nat) (m : List Host.Cell) (h : Cells.below n m) : Cells.below n (Cells.erase a m) :=
  fun c hc => h c (List.mem_filter.mp hc).1

/-! ## MEM -/

theorem Memory.wf_write (a : Nat) (b : Byte) (m : List Host.Cell) (h : Memory.wf m) :
    Memory.wf (Memory.write a b m) := by
  unfold Memory.write
  split_ifs with hb
  · exact ⟨Cells.rising_erase a m h.1, fun c hc => h.2 c (List.mem_filter.mp hc).1⟩
  · refine ⟨Cells.rising_set a b m h.1, fun c hc => ?_⟩
    rcases Cells.mem_set a b m c hc with rfl | hc
    · exact hb
    · exact h.2 c hc

theorem Memory.below_write (n a : Nat) (b : Byte) (m : List Host.Cell) (ha : a < n) (h : Cells.below n m) :
    Cells.below n (Memory.write a b m) := by
  unfold Memory.write
  split_ifs
  · exact Cells.below_erase n a m h
  · exact Cells.below_set n a b m ha h

/-- Reading after a write: the byte written at its address, every other address as before. -/
theorem Memory.read_write (a x : Nat) (b : Byte) (m : List Host.Cell) (h : Memory.wf m) :
    Memory.read x (Memory.write a b m) = if x = a then b else Memory.read x m := by
  unfold Memory.read Memory.write
  split_ifs with hb hx hx
  · simp [Cells.get?_erase, hx, hb]
  · simp [Cells.get?_erase, hx]
  · simp [Cells.get?_set _ _ _ _ h.1, hx]
  · simp [Cells.get?_set _ _ _ _ h.1, hx]

theorem Memory.wf_writeCells (cs m : List Host.Cell) (h : Memory.wf m) : Memory.wf (Memory.writeCells cs m) := by
  induction cs generalizing m with
  | nil => exact h
  | cons c r ih => exact ih _ (Memory.wf_write _ _ _ h)

theorem Memory.below_writeCells (n : Nat) (cs m : List Host.Cell) (hc : Cells.below n cs) (h : Cells.below n m) :
    Cells.below n (Memory.writeCells cs m) := by
  induction cs generalizing m with
  | nil => exact h
  | cons c r ih =>
    exact ih _ (fun d hd => hc d (by simp [hd])) (Memory.below_write _ _ _ _ (hc c (by simp)) h)

/-- After a list of cells at rising addresses is written, a listed address reads as listed and every other as before. -/
theorem Memory.read_writeCells (cs m : List Host.Cell) (x : Nat) (hc : Cells.rising cs) (h : Memory.wf m) :
    Memory.read x (Memory.writeCells cs m) = (Cells.get? x cs).getD (Memory.read x m) := by
  induction cs generalizing m with
  | nil => rfl
  | cons c r ih =>
    have hr := List.pairwise_cons.mp hc
    show Memory.read x (Memory.writeCells r (Memory.write c.1 c.2 m)) = _
    rw [ih _ hr.2 (Memory.wf_write _ _ _ h), Memory.read_write _ _ _ _ h]
    simp only [Cells.get?]
    by_cases hx : c.1 = x
    · subst hx
      simp [Cells.get?_of_lt _ _ hr.1]
    · simp [hx, Ne.symm hx]

/-! ## Drawn contents -/

theorem drawMem_wf (t : Nat) (addrs : List Nat) (m : List Host.Cell) (h : Memory.wf m) :
    Memory.wf (drawMem t addrs m) := by
  induction addrs generalizing m with
  | nil => exact h
  | cons a r ih => exact ih _ (Memory.wf_write _ _ _ h)

theorem drawMem_below (t n : Nat) (addrs : List Nat) (m : List Host.Cell) (ha : ∀ a ∈ addrs, a < n)
    (h : Cells.below n m) : Cells.below n (drawMem t addrs m) := by
  induction addrs generalizing m with
  | nil => exact h
  | cons a r ih =>
    exact ih _ (fun x hx => ha x (by simp [hx])) (Memory.below_write _ _ _ _ (ha a (by simp)) h)

/-- A drawn MEM is as before at every address that was not drawn. -/
theorem drawMem_read (t x : Nat) (addrs : List Nat) (m : List Host.Cell) (h : Memory.wf m) (hx : x ∉ addrs) :
    Memory.read x (drawMem t addrs m) = Memory.read x m := by
  induction addrs generalizing m with
  | nil => rfl
  | cons a r ih =>
    have hx' : x ≠ a ∧ x ∉ r := by simpa using hx
    show Memory.read x (drawMem t r (Memory.write a _ m)) = _
    rw [ih _ (Memory.wf_write _ _ _ h) hx'.2, Memory.read_write _ _ _ _ h, if_neg hx'.1]

theorem touched_lt (p : Params) (a x : Nat) (h : x ∈ touched p a) : x < p.capacity := by
  unfold touched at h
  split_ifs at h
  · exact List.mem_range.mp (List.mem_filter.mp h).1
  · exact List.mem_range.mp h

/-- A fold of admitted cells into a map keeps any property that listing an admitted cell keeps. -/
theorem drawPend_keeps (P : List Host.Cell → Prop) (keep : Nat → Bool) (cs q : List Host.Cell) (hq : P q)
    (hs : ∀ a b q, keep a = true → P q → P (Cells.set a b q)) :
    P (cs.foldl (fun q c => if keep c.1 then Cells.set c.1 c.2 q else q) q) := by
  induction cs generalizing q with
  | nil => exact hq
  | cons c r ih =>
    refine ih _ ?_
    show P (if keep c.1 then Cells.set c.1 c.2 q else q)
    split_ifs with h
    · exact hs _ _ _ h hq
    · exact hq

theorem drawPend_rising (t : Nat) (keep : Nat → Bool) : Cells.rising (drawPend t keep) :=
  drawPend_keeps Cells.rising keep _ [] List.Pairwise.nil (fun a b q _ h => Cells.rising_set a b q h)

theorem drawPend_below (t n : Nat) (keep : Nat → Bool) (hk : ∀ a, keep a = true → a < n) :
    Cells.below n (drawPend t keep) :=
  drawPend_keeps (Cells.below n) keep _ [] (fun _ hc => absurd hc List.not_mem_nil)
    (fun a b q ha h => Cells.below_set n a b q (hk a ha) h)

/-! ## The bytes of a program frame -/

theorem placeBytes_rising (p : Params) (a i : Nat) (d : List Byte) (q : List Host.Cell) (h : Cells.rising q) :
    Cells.rising (placeBytes p a i d q) := by
  induction d generalizing i q with
  | nil => exact h
  | cons b r ih => exact ih _ _ (Cells.rising_set _ _ _ h)

theorem placeBytes_below (p : Params) (n a i : Nat) (d : List Byte) (q : List Host.Cell)
    (ht : ∀ j, i ≤ j → j < i + d.length → pageTarget p a j < n) (h : Cells.below n q) :
    Cells.below n (placeBytes p a i d q) := by
  induction d generalizing i q with
  | nil => exact h
  | cons b r ih =>
    refine ih _ _ (fun j h1 h2 => ht j (by omega) (by simp only [List.length_cons]; omega)) ?_
    exact Cells.below_set _ _ _ _ (ht i (by omega) (by simp only [List.length_cons]; omega)) h

/-- An address no byte of the frame goes to keeps what PEND held for it. -/
theorem placeBytes_other (p : Params) (a i x : Nat) (d : List Byte) (q : List Host.Cell) (h : Cells.rising q)
    (hx : ∀ j, i ≤ j → j < i + d.length → pageTarget p a j ≠ x) :
    Cells.get? x (placeBytes p a i d q) = Cells.get? x q := by
  induction d generalizing i q with
  | nil => rfl
  | cons b r ih =>
    show Cells.get? x (placeBytes p a (i + 1) r (Cells.set (pageTarget p a i) b q)) = _
    rw [ih _ _ (Cells.rising_set _ _ _ h)
      (fun j h1 h2 => hx j (by omega) (by simp only [List.length_cons]; omega)),
      Cells.get?_set _ _ _ _ h, if_neg]
    exact fun e => hx i (by omega) (by simp only [List.length_cons]; omega) e.symm

/-- Byte j of the frame stands at its target, when no later byte of the frame goes there. -/
theorem placeBytes_at (p : Params) (a i j : Nat) (d : List Byte) (q : List Host.Cell) (h : Cells.rising q)
    (hj : j < d.length)
    (hd : ∀ k, j < k → k < d.length → pageTarget p a (i + k) ≠ pageTarget p a (i + j)) :
    Cells.get? (pageTarget p a (i + j)) (placeBytes p a i d q) = d[j]? := by
  induction d generalizing i j q with
  | nil => simp at hj
  | cons b r ih =>
    show Cells.get? _ (placeBytes p a (i + 1) r (Cells.set (pageTarget p a i) b q)) = _
    cases j with
    | zero =>
      rw [placeBytes_other _ _ _ _ _ _ (Cells.rising_set _ _ _ h), Cells.get?_set _ _ _ _ h]
      · simp
      · intro k h1 h2
        have := hd (k - i) (by omega) (by simp only [List.length_cons]; omega)
        rwa [show i + (k - i) = k by omega] at this
    | succ j =>
      have := ih (i + 1) j (Cells.set (pageTarget p a i) b q) (Cells.rising_set _ _ _ h)
        (by simpa using hj)
        (fun k h1 h2 => by
          have := hd (k + 1) (by omega) (by simp only [List.length_cons]; omega)
          rwa [show i + (k + 1) = i + 1 + k by omega, show i + (j + 1) = i + 1 + j by omega] at this)
      rw [show i + (j + 1) = i + 1 + j by omega]
      simpa using this

end Sys2Proof.Machine
end

