-- ==== Sys2Proof/Laws/Ops.lean ====
section
/-! SUPPORT. What each shared operation does to the fields it changes: the trace, ERR, the devices and the counters. -/

namespace Sys2Proof.Machine

/-! ## Flags -/

@[simp] theorem bit_busTransferFailed : Cause.bit .busTransferFailed = 0b00001#5 := rfl
@[simp] theorem bit_acquisitionDegraded : Cause.bit .acquisitionDegraded = 0b00010#5 := rfl
@[simp] theorem bit_boundaryHazard : Cause.bit .boundaryHazard = 0b00100#5 := rfl
@[simp] theorem bit_writeTimedOut : Cause.bit .writeTimedOut = 0b01000#5 := rfl
@[simp] theorem bit_commandRefused : Cause.bit .commandRefused = 0b10000#5 := rfl

theorem statusOf_bit_zero (u : BitVec 7) (w : Bool) : (statusOf u w).getLsbD 0 = w := by
  revert u w; decide

@[simp] theorem statusOf_getElem_zero (u : BitVec 7) (w : Bool) : (statusOf u w)[0] = w := statusOf_bit_zero u w

@[simp] theorem statusWip_statusOf (u : BitVec 7) (w : Bool) : statusWip (statusOf u w) = w := statusOf_bit_zero u w

@[simp] theorem bothOk_eq_ok (a b : BusResult) : bothOk a b = .ok ↔ a = .ok ∧ b = .ok := by
  cases a <;> cases b <;> simp [bothOk]

theorem bothOk_assoc (a b c : BusResult) : bothOk (bothOk a b) c = bothOk a (bothOk b c) := by
  cases a <;> cases b <;> cases c <;> rfl

theorem busFail_or (r : BusResult) (e f : BitVec 5) : busFail r (e ||| f) = busFail r e ||| f := by
  cases r
  · rfl
  · simp only [busFail]; rw [BitVec.or_assoc, BitVec.or_comm f, ← BitVec.or_assoc]

/-! ## Issuing -/

theorem whenIdle_idle (f : State → State) (s : State) (h : s.busy = false) : whenIdle f s = .next (f s) := by
  simp [whenIdle, h]

theorem whenIdle_busy (f : State → State) (s : State) (h : s.busy = true) : whenIdle f s = .refused .busy := by
  simp [whenIdle, h]

/-- What a next state answered by a meaning is. -/
theorem whenIdle_next (f : State → State) (s t : State) (h : whenIdle f s = .next t) : s.busy = false ∧ t = f s := by
  unfold whenIdle at h
  split at h
  · cases h
  · exact ⟨by simp_all, by cases h; rfl⟩

/-- BUSY depends on the four engine registers only. -/
theorem busy_same (s t : State) (h1 : t.scState = s.scState) (h2 : t.mwState = s.mwState) (h3 : t.mrState = s.mrState)
    (h4 : t.loState = s.loState) : t.busy = s.busy := by
  simp only [State.busy, h1, h2, h3, h4]

/-- With BUSY = 0 the three engines rest, and the orchestrator is in LO_IDLE or LO_DONE. -/
theorem of_not_busy (s : State) (h : s.busy = false) :
    s.scState = .idle ∧ s.mwState = .idle ∧ s.mrState = .idle ∧ (s.loState = .idle ∨ s.loState = .done) := by
  simp only [State.busy, Bool.or_eq_false_iff, bne_eq_false_iff_eq] at h
  refine ⟨h.1.1.1, h.1.1.2, h.1.2, ?_⟩
  have h4 := h.2
  cases hl : s.loState <;> simp_all [LoState.running]

/-! ## Addresses -/

@[simp] theorem joinAddr_addrHi_addrLo (a : StorageAddr) : joinAddr (addrHi a) (addrLo a) = a := by
  simp only [joinAddr, addrHi, addrLo]
  ext i hi
  simp only [BitVec.getElem_append, BitVec.getElem_extractLsb']
  split <;> simp_all [BitVec.getLsbD_eq_getElem]

@[simp] theorem parse_wren : Frame.parse [opWren] 0 = .wren := rfl
@[simp] theorem parse_rdsr : Frame.parse [opRdsr] 1 = .rdsr := rfl

theorem parse_read (a : StorageAddr) (n : Nat) (h : n ≠ 0) : Frame.parse (readBytes a) n = .read a n := by
  simp [Frame.parse, readBytes, opRead, opWren, opRdsr, opWrdi, opWrsr, h]

theorem parse_program (a : StorageAddr) (d : List Byte) (h : d ≠ []) :
    Frame.parse (programBytes a d) 0 = .write a d := by
  simp [Frame.parse, programBytes, opRead, opWren, opRdsr, opWrdi, opWrsr, opWrite, h]

/-! ## The environment's answers -/

/-- A state with the same script, c calls later, answers call k as s answers call c + k. -/
theorem result_shift (s t : State) (c k : Nat) (hs : t.script = s.script) (hc : t.busCalls = s.busCalls + c) :
    t.result k = s.result (c + k) := by
  simp only [State.result, hs, hc, Nat.add_assoc]

theorem sample_shift (s t : State) (c k : Nat) (hs : t.script = s.script) (hc : t.samples = s.samples + c) :
    t.sample k = s.sample (c + k) := by
  simp only [State.sample, hs, hc, Nat.add_assoc]

theorem cycle_shift (s t : State) (c k : Nat) (hs : t.script = s.script) (hc : t.programs = s.programs + c) :
    t.cycle k = s.cycle (c + k) := by
  simp only [State.cycle, hs, hc, Nat.add_assoc]

/-- The next answer does not depend on anything but the script and the count of calls. -/
theorem result_same (s t : State) (k : Nat) (hs : t.script = s.script) (hc : t.busCalls = s.busCalls) :
    t.result k = s.result k := by
  simp only [State.result, hs, hc]

theorem sample_same (s t : State) (k : Nat) (hs : t.script = s.script) (hc : t.samples = s.samples) :
    t.sample k = s.sample k := by
  simp only [State.sample, hs, hc]

theorem cycle_same (s t : State) (k : Nat) (hs : t.script = s.script) (hc : t.programs = s.programs) :
    t.cycle k = s.cycle k := by
  simp only [State.cycle, hs, hc]

@[simp] theorem drawBytes_length (t n : Nat) : (drawBytes t n).length = n := by simp [drawBytes]

/-! ## Reports -/

@[simp] theorem noteFailure_trace (r : BusResult) (x : Site) (s : State) :
    (noteFailure r x s).trace = s.trace ++ failureReport r x := by
  cases r <;> simp [noteFailure, failureReport]

@[simp] theorem noteFailure_err (r : BusResult) (x : Site) (s : State) : (noteFailure r x s).err = busFail r s.err := by
  cases r <;> simp [noteFailure, busFail]

@[simp] theorem reportResult_trace (r : BusResult) (x : Site) (s : State) :
    (reportResult r x s).trace = s.trace ++ [.rpt (resultKind r) x] := by
  cases r <;> simp [reportResult, resultKind]

@[simp] theorem reportResult_err (r : BusResult) (x : Site) (s : State) :
    (reportResult r x s).err = busFail r s.err := by
  cases r <;> simp [reportResult, busFail]

@[simp] theorem noteDegraded_trace (a b c : BusResult) (s : State) :
    (noteDegraded a b c s).trace = s.trace ++ degradedReport (bothOk (bothOk a b) c) := by
  unfold noteDegraded degradedReport
  cases bothOk (bothOk a b) c <;> simp

theorem noteDegraded_err (a b c : BusResult) (s : State) :
    (noteDegraded a b c s).err =
      if bothOk (bothOk a b) c = .ok then s.err else s.err ||| 0b00010#5 := by
  unfold noteDegraded
  cases bothOk (bothOk a b) c <;> simp

/-! ## The sensor bus -/

@[simp] theorem sensorHears_draws (r : BusResult) (f : Transfer) (s : State) :
    (sensorHears r f s).draws = s.draws + 1 := by cases r <;> rfl

@[simp] theorem sensorRead_draws (r : BusResult) (s : State) : (sensorRead r s).draws = s.draws + 1 := by cases r <;> rfl

@[simp] theorem sensorRead_samples (r : BusResult) (s : State) : (sensorRead r s).samples = s.samples + 1 := by
  cases r <;> rfl

@[simp] theorem twiWrite_draws (r : BusResult) (a : Byte) (b : List Byte) (s : State) :
    (twiWrite r a b s).draws = s.draws + 1 := by simp [twiWrite]

@[simp] theorem twiWrite_busCalls (r : BusResult) (a : Byte) (b : List Byte) (s : State) :
    (twiWrite r a b s).busCalls = s.busCalls + 1 := by simp [twiWrite]

@[simp] theorem twiWrite_trace (r : BusResult) (a : Byte) (b : List Byte) (s : State) :
    (twiWrite r a b s).trace = s.trace ++ [.tw a b r] := by simp [twiWrite]

@[simp] theorem twiRead_draws (r : BusResult) (a : Byte) (s : State) : (twiRead r a s).draws = s.draws + 1 := by
  simp [twiRead]

@[simp] theorem twiRead_busCalls (r : BusResult) (a : Byte) (s : State) :
    (twiRead r a s).busCalls = s.busCalls + 1 := by simp [twiRead]

@[simp] theorem twiRead_samples (r : BusResult) (a : Byte) (s : State) : (twiRead r a s).samples = s.samples + 1 := by
  simp [twiRead]

@[simp] theorem twiRead_trace (r : BusResult) (a : Byte) (s : State) :
    (twiRead r a s).trace = s.trace ++ [.tr a 2 r [(s.sample 0).1, (s.sample 0).2]] := by simp [twiRead]

@[simp] theorem foreignWrite_trace (a : Byte) (b : List Byte) (s : State) :
    (foreignWrite a b s).trace = s.trace ++ [.tw a b .ok] := by simp [foreignWrite]

@[simp] theorem foreignRead_trace (s : State) :
    (foreignRead s).trace = s.trace ++ [.tr s.cfg.sa8 2 .ok [(s.sample 0).1, (s.sample 0).2]] := by simp [foreignRead]

@[simp] theorem foreignRead_samples (s : State) : (foreignRead s).samples = s.samples + 1 := by simp [foreignRead]

@[simp] theorem strangeWrite_trace (a : Byte) (b : List Byte) (s : State) :
    (strangeWrite a b s).trace = s.trace ++ [.tw a b .ok] := by simp [strangeWrite]

@[simp] theorem strangeRead_trace (a : Byte) (n : Nat) (s : State) :
    (strangeRead a n s).trace = s.trace ++ [.tr a n .ok (drawBytes s.draws n)] := by simp [strangeRead]

/-! ## The memory device -/

/-- What the device is after a frame with result r. -/
def MemDevice.hears (p : Params) (t : Nat) (k : NatInf) (r : BusResult) (f : Frame) (d : MemDevice) : MemDevice :=
  match r with
  | .ok => d.complete p t k f
  | .failed => d.failed p t f

/-- The device-select line plays no part in what a frame does. -/
theorem hears_selected (p : Params) (t : Nat) (k : NatInf) (r : BusResult) (f : Frame) (d : MemDevice) (b c : Bool) :
    { MemDevice.hears p t k r f { d with selected := b } with selected := c } =
      { MemDevice.hears p t k r f d with selected := c } := by
  cases d with
  | mk mem wel wip pend kLeft sel =>
    cases r <;> cases f <;> cases wip <;> cases wel <;>
      simp [MemDevice.hears, MemDevice.complete, MemDevice.failed, MemDevice.disturbed, MemDevice.unknown,
        MemDevice.program, MemDevice.programFailed, MemDevice.statusRead, MemDevice.commit] <;>
      (try split) <;> (try split) <;> simp_all

theorem starts_selected (p : Params) (f : Frame) (d : MemDevice) (b : Bool) :
    MemDevice.starts p f { d with selected := b } = d.starts p f := by
  cases f <;> rfl

@[simp] theorem statusRead_selected (d : MemDevice) (b : Bool) :
    MemDevice.statusRead { d with selected := b } = { d.statusRead with selected := b } := by
  cases d with
  | mk mem wel wip pend kLeft sel =>
    cases wip
    · rfl
    · rcases kLeft with (_ | _) | _ <;> rfl

theorem deviceHears_dev (r : BusResult) (f : Frame) (s : State) :
    (deviceHears r f s).dev = s.dev.hears s.cfg s.draws (s.cycle 0) r f := by cases r <;> rfl

@[simp] theorem deviceHears_draws (r : BusResult) (f : Frame) (s : State) :
    (deviceHears r f s).draws = s.draws + 1 := by cases r <;> rfl

theorem deviceHears_programs (r : BusResult) (f : Frame) (s : State) :
    (deviceHears r f s).programs = if r = .ok ∧ s.dev.starts s.cfg f = true then s.programs + 1 else s.programs := by
  cases r <;> simp [deviceHears]

/-! ## Frames of CORE -/

@[simp] theorem frameOut_draws (tx : List Byte) (x : Site) (s : State) : (frameOut tx x s).draws = s.draws + 1 := by
  simp [frameOut]

@[simp] theorem frameOut_busCalls (tx : List Byte) (x : Site) (s : State) :
    (frameOut tx x s).busCalls = s.busCalls + 1 := by simp [frameOut]

@[simp] theorem frameOut_trace (tx : List Byte) (x : Site) (s : State) :
    (frameOut tx x s).trace = s.trace ++ ([.sel, .tx tx (s.result 0)] ++ failureReport (s.result 0) x ++ [.des]) := by
  simp [frameOut]

@[simp] theorem frameOut_err (tx : List Byte) (x : Site) (s : State) :
    (frameOut tx x s).err = busFail (s.result 0) s.err := by simp [frameOut]

theorem frameOut_dev (tx : List Byte) (x : Site) (s : State) :
    (frameOut tx x s).dev =
      { s.dev.hears s.cfg s.draws (s.cycle 0) (s.result 0) (Frame.parse tx 0) with selected := false } := by
  simp only [frameOut, memDeselect_dev, deviceHears_dev, noteFailure_dev, callBus_dev, memSelect_dev,
    noteFailure_cfg, callBus_cfg, memSelect_cfg, noteFailure_draws, callBus_draws, memSelect_draws]
  rw [hears_selected, cycle_same s _ 0 (by simp) (by simp)]

theorem frameOut_programs (tx : List Byte) (x : Site) (s : State) :
    (frameOut tx x s).programs =
      if s.result 0 = .ok ∧ s.dev.starts s.cfg (Frame.parse tx 0) = true then s.programs + 1 else s.programs := by
  simp only [frameOut, memDeselect_programs, deviceHears_programs, noteFailure_dev, callBus_dev, memSelect_dev,
    noteFailure_cfg, callBus_cfg, memSelect_cfg, noteFailure_programs, callBus_programs, memSelect_programs,
    starts_selected]

@[simp] theorem frameIn_draws (tx : List Byte) (n : Nat) (x y : Site) (s : State) :
    (frameIn tx n x y s).draws = s.draws + 1 := by simp [frameIn]

@[simp] theorem frameIn_busCalls (tx : List Byte) (n : Nat) (x y : Site) (s : State) :
    (frameIn tx n x y s).busCalls = s.busCalls + 2 := by simp [frameIn]

@[simp] theorem frameIn_trace (tx : List Byte) (n : Nat) (x y : Site) (s : State) :
    (frameIn tx n x y s).trace = s.trace ++
      ([.sel, .tx tx (s.result 0)] ++ failureReport (s.result 0) x ++ [.rx n (s.result 1) (frameInBytes tx n s)] ++
        failureReport (s.result 1) y ++ [.des]) := by simp [frameIn]

@[simp] theorem frameIn_err (tx : List Byte) (n : Nat) (x y : Site) (s : State) :
    (frameIn tx n x y s).err = busFail (frameInResult s) s.err := by
  simp only [frameIn, frameInResult]
  cases s.result 0 <;> cases s.result 1 <;> simp [busFail, bothOk, BitVec.or_assoc]

theorem frameIn_dev (tx : List Byte) (n : Nat) (x y : Site) (s : State) :
    (frameIn tx n x y s).dev =
      { s.dev.hears s.cfg s.draws (s.cycle 0) (frameInResult s) (Frame.parse tx n) with selected := false } := by
  simp only [frameIn, memDeselect_dev, deviceHears_dev, noteFailure_dev, callBus_dev, memSelect_dev,
    noteFailure_cfg, callBus_cfg, memSelect_cfg, noteFailure_draws, callBus_draws, memSelect_draws]
  rw [hears_selected, cycle_same s _ 0 (by simp) (by simp)]

theorem frameIn_programs (tx : List Byte) (n : Nat) (x y : Site) (s : State) :
    (frameIn tx n x y s).programs =
      if frameInResult s = .ok ∧ s.dev.starts s.cfg (Frame.parse tx n) = true then s.programs + 1
      else s.programs := by
  simp only [frameIn, memDeselect_programs, deviceHears_programs, noteFailure_dev, callBus_dev, memSelect_dev,
    noteFailure_cfg, callBus_cfg, memSelect_cfg, noteFailure_programs, callBus_programs, memSelect_programs,
    starts_selected]

/-! ## Frames of another master -/

@[simp] theorem foreignFrame_draws (f : Frame) (s : State) : (foreignFrame f s).draws = s.draws + 1 := by
  unfold foreignFrame; split <;> simp

theorem foreignFrame_trace (f : Frame) (s : State) :
    (foreignFrame f s).trace = s.trace ++ ([.sel, .tx f.txBytes .ok] ++
      (if f.rxLen = 0 then [] else [.rx f.rxLen .ok (s.dev.answer s.cfg s.draws f)]) ++ [.des]) := by
  unfold foreignFrame; split <;> simp

theorem foreignFrame_dev (f : Frame) (s : State) :
    (foreignFrame f s).dev = { s.dev.complete s.cfg s.draws (s.cycle 0) f with selected := false } := by
  have h := hears_selected s.cfg s.draws (s.cycle 0) .ok f s.dev true false
  unfold foreignFrame
  split <;>
  · simp only [memDeselect_dev, deviceHears_dev, log_dev, memSelect_dev, log_cfg, memSelect_cfg, log_draws,
      memSelect_draws]
    rw [cycle_same s _ 0 (by simp) (by simp)]
    exact h

theorem foreignFrame_programs (f : Frame) (s : State) :
    (foreignFrame f s).programs = if s.dev.starts s.cfg f = true then s.programs + 1 else s.programs := by
  unfold foreignFrame
  split <;> simp [deviceHears_programs, starts_selected]

/-! ## Polling -/

/-- The status byte a complete status frame clocks in, and the device after it. -/
theorem frameInBytes_rdsr (s : State) (h : frameInResult s = .ok) :
    frameInBytes [opRdsr] 1 s = [statusOf (Config.freeStatus s.draws) s.dev.statusRead.wip] := by
  simp [frameInBytes, h, MemDevice.answer]

theorem takeStatus_pollCnt (r : BusResult) (b : List Byte) (s : State) :
    (takeStatus r b s).pollCnt = s.pollCnt + 1 := by
  unfold takeStatus; split <;> rfl

/-- A pass while the limit is not reached and both primitives return `Ok`. -/
theorem pollPass_ok (s : State) (hx : pollExhausted s = false) (hr : frameInResult s = .ok) :
    (pollPass s).mwState = (if s.dev.statusRead.wip then s.mwState else .idle) ∧
    (pollPass s).pollCnt = s.pollCnt + 1 ∧
    (pollPass s).statusByte = statusOf (Config.freeStatus s.draws) s.dev.statusRead.wip ∧
    (pollPass s).err = s.err ∧
    (pollPass s).dev = { s.dev.statusRead with selected := false } ∧
    (pollPass s).busCalls = s.busCalls + 2 ∧ (pollPass s).programs = s.programs ∧
    (pollPass s).draws = s.draws + 1 ∧
    (pollPass s).trace = s.trace ++ [.sel, .tx [opRdsr] .ok,
      .rx 1 .ok [statusOf (Config.freeStatus s.draws) s.dev.statusRead.wip], .des] := by
  have h01 := (bothOk_eq_ok _ _).mp hr
  simp [pollPass, hx, hr, frameInBytes_rdsr s hr, takeStatus, frameIn_dev, frameIn_programs, MemDevice.hears,
    MemDevice.complete, MemDevice.starts, busFail, h01.1, h01.2, failureReport]

/-- A pass while the limit is not reached and a primitive fails. -/
theorem pollPass_failed (s : State) (hx : pollExhausted s = false) (hr : frameInResult s = .failed) :
    (pollPass s).mwState = s.mwState ∧ (pollPass s).pollCnt = s.pollCnt + 1 ∧
    (pollPass s).statusByte = s.statusByte ∧ (pollPass s).err = s.err ||| 0b00001#5 ∧
    (pollPass s).dev = { s.dev with selected := false } ∧
    (pollPass s).busCalls = s.busCalls + 2 ∧ (pollPass s).programs = s.programs ∧
    (pollPass s).draws = s.draws + 1 ∧
    (pollPass s).trace = s.trace ++
      ([.sel, .tx [opRdsr] (s.result 0)] ++ failureReport (s.result 0) .mwPollTx ++
        [.rx 1 (s.result 1) (drawBytes s.draws 1)] ++ failureReport (s.result 1) .mwPollRx ++ [.des]) := by
  simp [pollPass, hx, hr, takeStatus, frameIn_dev, frameIn_programs, MemDevice.hears, MemDevice.failed, busFail,
    frameInBytes]

/-- A pass when the limit is reached. -/
theorem pollPass_exhausted (s : State) (hx : pollExhausted s = true) :
    pollPass s = { s with
      mwState := .idle, err := s.err ||| 0b01000#5
      trace := s.trace ++ [.rpt (.cause .writeTimedOut) .mwPollLimit] } := by
  simp [pollPass, hx, raise, report, log]

end Sys2Proof.Machine
end

