-- ==== Sys2Proof/Laws/Engines.lean ====
section
/-! SUPPORT. The memory device's own invariant under every frame, the arithmetic of pages and slots, and what the engines
of Machine/WriteEngine.lean do. -/

namespace Sys2Proof.Machine

/-! ## Parameters -/

theorem legal_pageSize (p : Params) (h : p.legal = true) : 2 ≤ p.pageSize := by
  simp [Params.legal] at h
  omega

theorem legal_capacity (p : Params) (h : p.legal = true) : 2 ≤ p.capacity ∧ p.capacity ≤ 65536 := by
  simp [Params.legal] at h
  omega

theorem legal_capacity_even (p : Params) (h : p.legal = true) : p.capacity % 2 = 0 := by
  simp [Params.legal] at h
  have e : p.capacity = 2 ^ p.capacity.log2 := by omega
  have h2 : 2 ≤ p.capacity := by omega
  cases hk : p.capacity.log2 with
  | zero => rw [hk] at e; omega
  | succ k => rw [hk, Nat.pow_succ] at e; omega

theorem legal_pageSize_even (p : Params) (h : p.legal = true) : p.pageSize % 2 = 0 := by
  simp [Params.legal] at h
  have e : p.pageSize = 2 ^ p.pageSize.log2 := by omega
  have h2 : 2 ≤ p.pageSize := by omega
  cases hk : p.pageSize.log2 with
  | zero => rw [hk] at e; omega
  | succ k => rw [hk, Nat.pow_succ] at e; omega

theorem legal_page_dvd (p : Params) (h : p.legal = true) (hc : p.pageSize ≤ p.capacity) : p.pageSize ∣ p.capacity := by
  simp [Params.legal] at h
  have e1 : p.capacity = 2 ^ p.capacity.log2 := by omega
  have e2 : p.pageSize = 2 ^ p.pageSize.log2 := by omega
  rw [e1, e2] at hc ⊢
  exact Nat.pow_dvd_pow 2 ((Nat.pow_le_pow_iff_right (by omega)).mp hc)

/-! ## Addresses inside a page -/

/-- Without a page crossing byte i of the frame goes to a + i. -/
theorem pageTarget_inside (p : Params) (a i : Nat) (h : a % p.pageSize + i < p.pageSize) : pageTarget p a i = a + i := by
  have := Nat.mod_le a p.pageSize
  rw [pageTarget, Nat.mod_eq_of_lt h]
  omega

/-- Two bytes of a frame go to one address only a whole page apart. -/
theorem pageTarget_ne (p : Params) (a i j : Nat) (h : 2 ≤ p.pageSize) (hij : i < j) (hj : j - i < p.pageSize) :
    pageTarget p a i ≠ pageTarget p a j := by
  intro e
  unfold pageTarget at e
  have e' : (a % p.pageSize + i) % p.pageSize = (a % p.pageSize + j) % p.pageSize := by omega
  have hd := (Nat.modEq_iff_dvd' (n := p.pageSize) (a := a % p.pageSize + i) (b := a % p.pageSize + j) (by omega)).mp e'
  have := Nat.le_of_dvd (by omega) hd
  omega

/-- Every byte of a frame stays in the device where its page does. -/
theorem pageTarget_lt (p : Params) (h : p.legal = true) (hc : p.pageSize ≤ p.capacity) (a i : Nat) (ha : a < p.capacity) :
    pageTarget p a i < p.capacity := by
  obtain ⟨q, hq⟩ := legal_page_dvd p h hc
  have h0 := legal_pageSize p h
  have h1 := Nat.mod_lt (a % p.pageSize + i) (show p.pageSize > 0 by omega)
  have e := Nat.div_add_mod a p.pageSize
  have h2 : a / p.pageSize < q := Nat.div_lt_of_lt_mul (by omega)
  have h3 : p.pageSize * (a / p.pageSize) + p.pageSize ≤ p.pageSize * q := by
    rw [← Nat.mul_succ]
    exact Nat.mul_le_mul_left _ h2
  unfold pageTarget
  omega

/-- The targets of a write that passes both checks of MW.PAGEWRITE exist. -/
theorem targetsExist_of_checks (p : Params) (a : StorageAddr) (n : Nat) (hr : inRange p a n = true)
    (hp : inPage p a n = true) : targetsExist p a.toNat n = true := by
  simp only [inRange, inPage, Bool.and_eq_true, decide_eq_true_eq] at hr hp
  simp only [targetsExist, Bool.and_eq_true, decide_eq_true_eq, List.all_eq_true, List.mem_range]
  refine ⟨by omega, fun i hi => ?_⟩
  rw [pageTarget_inside p a.toNat i (by omega)]
  omega

/-! ## The memory device under every frame -/

/-- MEM canonical and inside the device, PEND a map inside the device, empty while nothing is in flight. -/
structure MemDevice.Sound (p : Params) (d : MemDevice) : Prop where
  memCanonical : Memory.wf d.mem
  memRange : Cells.below p.capacity d.mem
  pendRising : Cells.rising d.pend
  pendRange : Cells.below p.capacity d.pend
  pendIdle : d.wip = false → d.pend = []

theorem MemDevice.Sound.select {p : Params} {d : MemDevice} (h : d.Sound p) (b : Bool) :
    MemDevice.Sound p { d with selected := b } := ⟨h.1, h.2, h.3, h.4, h.5⟩

theorem MemDevice.Sound.unknown {p : Params} {d : MemDevice} (t : Nat) (h : d.Sound p) : (d.unknown p t).Sound p where
  memCanonical := drawMem_wf _ _ _ h.1
  memRange := drawMem_below _ _ _ _ (by simp) h.2
  pendRising := by
    simp only [MemDevice.unknown]
    split
    · exact drawPend_rising _ _
    · exact .nil
  pendRange := by
    simp only [MemDevice.unknown]
    split
    · exact drawPend_below _ _ _ (by simp)
    · simp [Cells.below]
  pendIdle := by
    simp only [MemDevice.unknown]
    intro hw
    simp [hw]

theorem MemDevice.Sound.disturbed {p : Params} {d : MemDevice} (t : Nat) (as : List Nat) (ha : ∀ a ∈ as, a < p.capacity)
    (hw : d.wip = true) (h : d.Sound p) : (d.disturbed p t as).Sound p where
  memCanonical := drawMem_wf _ _ _ h.1
  memRange := drawMem_below _ _ _ _ ha h.2
  pendRising := by
    simp only [MemDevice.disturbed]
    exact drawPend_rising _ _
  pendRange := by
    simp only [MemDevice.disturbed]
    exact drawPend_below _ _ _ (fun a ha => by simpa using ha)
  pendIdle := by simp [MemDevice.disturbed, hw]

theorem MemDevice.Sound.programFailed {p : Params} {d : MemDevice} (t a : Nat) (h : d.Sound p) :
    (d.programFailed p t a).Sound p where
  memCanonical := drawMem_wf _ _ _ h.1
  memRange := drawMem_below _ _ _ _ (fun x hx => touched_lt p a x hx) h.2
  pendRising := by
    simp only [MemDevice.programFailed]
    split
    · exact drawPend_rising _ _
    · exact .nil
  pendRange := by
    simp only [MemDevice.programFailed]
    split
    · exact drawPend_below _ _ _ (by simp +contextual)
    · simp [Cells.below]
  pendIdle := by
    simp only [MemDevice.programFailed]
    intro hw
    simp [hw]

/-- What a status read leaves of MEM: PEND is committed exactly where WIP is seen to fall. -/
theorem MemDevice.statusRead_read (d : MemDevice) (hm : Memory.wf d.mem) (hp : Cells.rising d.pend) (x : Nat) :
    Memory.read x d.statusRead.mem =
      if d.wip = true ∧ d.statusRead.wip = false then (Cells.get? x d.pend).getD (Memory.read x d.mem)
      else Memory.read x d.mem := by
  by_cases hw : d.wip = true
  · simp only [MemDevice.statusRead, hw, if_true, true_and]
    split
    · simpa [MemDevice.commit] using Memory.read_writeCells _ _ _ hp hm
    · rfl
    · simp [hw]
  · simp [MemDevice.statusRead, hw]

theorem MemDevice.Sound.statusRead {p : Params} {d : MemDevice} (h : d.Sound p) : d.statusRead.Sound p := by
  unfold MemDevice.statusRead
  split
  · split
    · exact ⟨Memory.wf_writeCells _ _ h.1, Memory.below_writeCells _ _ _ h.4 h.2, .nil, by simp [MemDevice.commit, Cells.below],
        fun _ => rfl⟩
    · exact ⟨h.1, h.2, h.3, h.4, h.5⟩
    · exact h
  · exact h

theorem MemDevice.Sound.program {p : Params} {d : MemDevice} (k : NatInf) (a : Nat) (data : List Byte)
    (ht : targetsExist p a data.length = true) (h : d.Sound p) : (d.program p k a data).Sound p where
  memCanonical := h.1
  memRange := h.2
  pendRising := placeBytes_rising _ _ _ _ _ h.3
  pendRange := by
    refine placeBytes_below _ _ _ _ _ _ (fun j hj => ?_) h.4
    simp [targetsExist] at ht
    have := ht.2 j
    simp_all
  pendIdle := by simp [MemDevice.program]

/-- Every frame, complete or failed, keeps the device sound. -/
theorem MemDevice.Sound.hears {p : Params} {d : MemDevice} (t : Nat) (k : NatInf) (r : BusResult) (f : Frame)
    (h : d.Sound p) : (d.hears p t k r f).Sound p := by
  cases r <;> cases f <;> simp only [MemDevice.hears, MemDevice.complete, MemDevice.failed]
  case ok.read a n =>
    split
    · exact h.disturbed _ _ (fun x hx => touched_lt p _ x hx) ‹_›
    · exact h
  case ok.write a data =>
    split
    · exact h.unknown _
    · split
      · exact h.disturbed _ _ (fun x hx => touched_lt p _ x hx) ‹_›
      · exact h.program _ _ _ (by simp_all)
  case ok.wren =>
    split
    · exact h.disturbed _ _ (by simp) ‹_›
    · exact ⟨h.1, h.2, h.3, h.4, h.5⟩
  case failed.wren =>
    split
    · exact h.disturbed _ _ (by simp) ‹_›
    · exact ⟨h.1, h.2, h.3, h.4, h.5⟩
  case ok.rdsr => exact h.statusRead
  case failed.read => exact h
  case failed.rdsr => exact h
  case failed.write => exact h.programFailed _ _
  all_goals exact h.unknown _

/-! ## The device under every engine -/

/-- The device of s is sound and no frame is open. -/
abbrev State.devQuiet (s : State) : Prop := s.dev.Sound s.cfg ∧ s.dev.selected = false

theorem frameOut_quiet (tx : List Byte) (x : Site) (s : State) (h : s.dev.Sound s.cfg) : (frameOut tx x s).devQuiet := by
  simp only [State.devQuiet, frameOut_dev, frameOut_cfg]
  exact ⟨(h.hears _ _ _ _).select _, trivial⟩

theorem frameIn_quiet (tx : List Byte) (n : Nat) (x y : Site) (s : State) (h : s.dev.Sound s.cfg) :
    (frameIn tx n x y s).devQuiet := by
  simp only [State.devQuiet, frameIn_dev, frameIn_cfg]
  exact ⟨(h.hears _ _ _ _).select _, trivial⟩

theorem foreignFrame_quiet (f : Frame) (s : State) (h : s.dev.Sound s.cfg) : (foreignFrame f s).devQuiet := by
  simp only [State.devQuiet, foreignFrame_dev, foreignFrame_cfg]
  exact ⟨(h.hears s.draws (s.cycle 0) .ok f).select _, trivial⟩

theorem pollPass_quiet (s : State) (h : s.devQuiet) : (pollPass s).devQuiet := by
  unfold pollPass
  split
  · simpa [State.devQuiet] using h
  · simpa [State.devQuiet] using frameIn_quiet [opRdsr] 1 .mwPollTx .mwPollRx s h.1

theorem mwWren_quiet (m : MwState) (s : State) (h : s.dev.Sound s.cfg) : (mwWren m s).devQuiet := by
  simpa [mwWren, State.devQuiet] using frameOut_quiet [opWren] .mwWrenTx { s with mwState := .wren } h

theorem waitRdy_quiet (s : State) (h : s.devQuiet) : (waitRdy s).devQuiet :=
  pollPass_quiet { s with mwState := .poll, pollCnt := 0 } h

theorem pageWrite_quiet (a : StorageAddr) (n : Nat) (d : List Byte) (s : State) (h : s.devQuiet) :
    (pageWrite a n d s).devQuiet := by
  unfold pageWrite
  split_ifs
  · simpa [State.devQuiet] using h
  · simpa [State.devQuiet] using h
  · exact waitRdy_quiet _ (frameOut_quiet _ _ _ (mwWren_quiet _ _ h.1).1)

theorem memoryRead_quiet (a : StorageAddr) (n : Nat) (s : State) (h : s.devQuiet) : (memoryRead a n s).devQuiet := by
  unfold memoryRead
  split
  · simpa [State.devQuiet] using h
  · simpa [State.devQuiet] using frameIn_quiet (readBytes a) n .mrReadTx .mrReadRx { s with mrState := .read } h.1

/-! ## MW_STATE and POLL_CNT -/

theorem pollExhausted_iff (s : State) : pollExhausted s = true ↔ s.cfg.pollLimit = .fin s.pollCnt := by
  simp [pollExhausted]

/-- A pass ends with MW_STATE as it was or at MW_IDLE. -/
theorem pollPass_mwState (s : State) : (pollPass s).mwState = s.mwState ∨ (pollPass s).mwState = .idle := by
  unfold pollPass
  split
  · exact .inr rfl
  · unfold takeStatus
    split
    · simp only
      split <;> simp
    · exact .inl (by simp)
    · exact .inl (by simp)

theorem pollPass_pollCnt (s : State) :
    (pollPass s).pollCnt = if s.cfg.pollLimit = .fin s.pollCnt then s.pollCnt else s.pollCnt + 1 := by
  unfold pollPass
  by_cases h : s.cfg.pollLimit = .fin s.pollCnt
  · rw [if_pos ((pollExhausted_iff s).mpr h), if_pos h]
    rfl
  · rw [if_neg (fun e => h ((pollExhausted_iff s).mp e)), if_neg h, takeStatus_pollCnt, frameIn_pollCnt]

theorem pollAdmits_pass (s : State) (h : pollAdmits s.cfg s.pollCnt = true) :
    pollAdmits s.cfg (pollPass s).pollCnt = true := by
  rw [pollPass_pollCnt]
  unfold pollAdmits at *
  cases hl : s.cfg.pollLimit with
  | inf => simp
  | fin l =>
    simp only [hl, decide_eq_true_eq, NatInf.fin.injEq] at *
    split <;> omega

theorem pollAdmits_zero (p : Params) : pollAdmits p 0 = true := by
  unfold pollAdmits
  split <;> simp

theorem waitRdy_mwState (s : State) : (waitRdy s).mwState = .poll ∨ (waitRdy s).mwState = .idle :=
  pollPass_mwState { s with mwState := .poll, pollCnt := 0 }

theorem waitRdy_admits (s : State) : pollAdmits s.cfg (waitRdy s).pollCnt = true :=
  pollAdmits_pass { s with mwState := .poll, pollCnt := 0 } (pollAdmits_zero _)

/-- MW.PAGEWRITE ends its step polling, at rest, or where a refused one found MW_STATE. -/
theorem pageWrite_mwState (a : StorageAddr) (n : Nat) (d : List Byte) (s : State) :
    (pageWrite a n d s).mwState = .poll ∨ (pageWrite a n d s).mwState = .idle ∨
      (pageWrite a n d s).mwState = s.mwState := by
  unfold pageWrite
  split_ifs
  · exact .inr (.inr rfl)
  · exact .inr (.inr rfl)
  · exact (waitRdy_mwState _).imp_right .inl

theorem pageWrite_admits (a : StorageAddr) (n : Nat) (d : List Byte) (s : State)
    (h : pollAdmits s.cfg s.pollCnt = true) : pollAdmits s.cfg (pageWrite a n d s).pollCnt = true := by
  unfold pageWrite
  split_ifs
  · exact h
  · exact h
  · simpa using waitRdy_admits (frameOut (programBytes a (d.take n)) .mwProgramTx (mwWren .program s))

end Sys2Proof.Machine
end

