-- ==== Sys2Proof/Laws/PerInstr.lean ====
section
/-! SUPPORT. The statement made of every instruction, and its lemma for every constructor: the encoding carries the number
the opcode table gives the row (spec/opcode_table.json, "match"), on the bus or port the row's format names. -/

namespace Sys2Proof.Laws.TableMatch

open Sys2Proof

/-- The number that selects an operation: op of a command (30_encoding R91), the first byte of a frame or of an addressed
write (20_memory sections 5 and 6); an addressed read has none, and the table's match for it is empty. -/
def selector : Request → Nat
  | .command op _ _ _ => op.toNat
  | .memFrame tx _ => (tx.headD 0#8).toNat
  | .twiWrite _ bytes => (bytes.headD 0#8).toNat
  | .twiRead _ _ => 0
  | .hardReset => 0

/-- Which port or bus a request arrives on: the command port 0, the memory bus 1, the sensor bus, written 2, read 3. -/
def port : Request → Nat
  | .command _ _ _ _ => 0
  | .memFrame _ _ => 1
  | .twiWrite _ _ => 2
  | .twiRead _ _ => 3
  | .hardReset => 4

/-- The port and the "match" of an instruction's row in the opcode table. -/
def row : Instr → Nat × Nat
  | .scReset => (0, 0)
  | .scConfig => (0, 1)
  | .scRead => (0, 2)
  | .mwWren => (0, 3)
  | .mwPageWrite _ _ _ => (0, 4)
  | .mwWaitRdy => (0, 5)
  | .mrRead _ _ => (0, 6)
  | .loRun => (0, 7)
  | .devRead _ _ => (1, 3)
  | .devWrite _ _ => (1, 2)
  | .devWrdi => (1, 4)
  | .devWren => (1, 6)
  | .devRdsr => (1, 5)
  | .devWrsr _ => (1, 1)
  | .senReset => (2, 6)
  | .senConfig _ => (2, 1)
  | .senPointer => (2, 0)
  | .senRead => (3, 0)

/-- An instruction's encoding arrives on its row's port under its row's number, whatever the parameters. -/
def Statement (i : Instr) : Prop := ∀ p : Params, (port (encode p i), selector (encode p i)) = row i

theorem scReset : Statement .scReset := fun _ => rfl
theorem scConfig : Statement .scConfig := fun _ => rfl
theorem scRead : Statement .scRead := fun _ => rfl
theorem mwWren : Statement .mwWren := fun _ => rfl
theorem mwPageWrite (a : StorageAddr) (n : Nat) (d : List Byte) : Statement (.mwPageWrite a n d) := fun _ => rfl
theorem mwWaitRdy : Statement .mwWaitRdy := fun _ => rfl
theorem mrRead (a : StorageAddr) (n : Nat) : Statement (.mrRead a n) := fun _ => rfl
theorem loRun : Statement .loRun := fun _ => rfl
theorem devRead (a : StorageAddr) (n : Nat) : Statement (.devRead a n) := fun _ => rfl
theorem devWrite (a : StorageAddr) (d : List Byte) : Statement (.devWrite a d) := fun _ => rfl
theorem devWrdi : Statement .devWrdi := fun _ => rfl
theorem devWren : Statement .devWren := fun _ => rfl
theorem devRdsr : Statement .devRdsr := fun _ => rfl
theorem devWrsr (d : List Byte) : Statement (.devWrsr d) := fun _ => rfl
theorem senReset : Statement .senReset := fun _ => rfl
theorem senConfig (v : Byte) : Statement (.senConfig v) := fun _ => rfl
theorem senPointer : Statement .senPointer := fun _ => rfl
theorem senRead : Statement .senRead := fun _ => rfl

end Sys2Proof.Laws.TableMatch
end

