-- ==== Sys2Proof/Laws/Runs.lean ====
section
/-! SUPPORT. Runs of several steps: their composition, and the poll of MW.WAITRDY from its first pass to its last. -/

namespace Sys2Proof.Machine

/-! ## Composition -/

theorem run_zero (s : State) : core.run 0 s = .next s := rfl

theorem run_succ (n : Nat) (s t : State) (h : step s = .next t) : core.run (n + 1) s = core.run n t := by
  have h' : core.step s = .next t := h
  simp only [Host.Core.run, h']

theorem run_add (m n : Nat) (s t : State) (h : core.run m s = .next t) : core.run (m + n) s = core.run n t := by
  induction m generalizing s with
  | zero =>
    cases h
    rw [Nat.zero_add]
  | succ m ih =>
    cases hs : step s with
    | next u =>
      rw [run_succ m s u hs] at h
      rw [Nat.succ_add, run_succ _ s u hs, ih u h]
    | fault r =>
      have h' : core.step s = .fault r := hs
      simp [Host.Core.run, h'] at h
    | refused r =>
      have h' : core.step s = .refused r := hs
      simp [Host.Core.run, h'] at h

/-! ## One pass of the poll -/

/-- While MW.WAITRDY polls, a step is one pass, after which LO_PERSIST is left if the poll is over. -/
theorem step_polling (s : State) (h : s.polling = true) : step s = .next (afterPersist (pollPass s)) := by
  simp only [State.polling, Bool.and_eq_true, beq_iff_eq] at h
  obtain ⟨⟨h1, h2⟩, h3⟩ := h
  have hb : s.busy = true := by simp [State.busy, h3]
  simp only [step, hb, if_true, resume, h1, h2, and_self, h3]

/-- While the write engine is at work LO_PERSIST is not left. -/
theorem afterPersist_active (s : State) (h : s.mwState ≠ .idle) : afterPersist s = s := by
  simp [afterPersist, h]

/-- Outside LO_PERSIST nothing follows a write. -/
theorem afterPersist_outside (s : State) (h : s.loState ≠ .persist) : afterPersist s = s := by
  simp [afterPersist, h]

theorem afterPersist_pace (s : State) (hl : s.loState = .persist) (hm : s.mwState = .idle)
    (h : moreSlots s.cfg s.logAddr = true) : afterPersist s = { s with loState := .pace } := by
  simp [afterPersist, hl, hm, h]

theorem afterPersist_done (s : State) (hl : s.loState = .persist) (hm : s.mwState = .idle)
    (h : moreSlots s.cfg s.logAddr = false) :
    afterPersist s = { s with loState := .done, done := true, trace := s.trace ++ [.ind true] } := by
  simp [afterPersist, hl, hm, h, setDone, log]

/-- The poll admits one more frame. -/
theorem pollExhausted_of_admits (s : State) (h : pollAdmits s.cfg (s.pollCnt + 1) = true) : pollExhausted s = false := by
  unfold pollAdmits at h
  unfold pollExhausted
  split at h
  · simp_all
  · rename_i l hl
    simp only [decide_eq_true_eq] at h
    simp [hl]
    omega

theorem pollAdmits_le (p : Params) (m n : Nat) (hmn : m ≤ n) (h : pollAdmits p n = true) : pollAdmits p m = true := by
  unfold pollAdmits at *
  split at h
  · rfl
  · simp only [decide_eq_true_eq] at *
    omega

/-- The device when its program operation has ended and been seen to end. -/
def MemDevice.finished (d : MemDevice) : MemDevice :=
  { d with
    mem := Memory.writeCells d.pend d.mem, pend := [], wip := false, wel := false, kLeft := .fin 0
    selected := false }

/-- What a poll changes: the write engine's registers, the device, the trace and the counters. -/
def State.polled (s u : State) (n : Nat) : Prop :=
  u = { s with
    mwState := .idle, pollCnt := s.pollCnt + n, statusByte := u.statusByte, dev := s.dev.finished
    busCalls := s.busCalls + 2 * n, draws := u.draws, trace := u.trace }

/-- A poll in which every primitive returns `Ok`, over a device that reports WIP set k more times: k + 1 passes. -/
theorem poll_finishes (k : Nat) (s : State) (hp : s.polling = true) (hw : s.dev.wip = true)
    (hk : s.dev.kLeft = .fin k) (ha : pollAdmits s.cfg (s.pollCnt + (k + 1)) = true) (hr : s.okFor (2 * (k + 1))) :
    ∃ u, core.run (k + 1) s = .next (afterPersist u) ∧ s.polled u (k + 1) ∧ u.statusByte.getLsbD 0 = false ∧
      ∃ es, u.trace = s.trace ++ es ∧ es.countP Event.isStatusRead = k + 1 := by
  have hx := pollExhausted_of_admits s (pollAdmits_le _ _ _ (by omega) ha)
  have hres : frameInResult s = .ok := (bothOk_eq_ok _ _).mpr ⟨hr 0 (by omega), hr 1 (by omega)⟩
  have hpass := pollPass_ok s hx hres
  obtain ⟨p1, p2, p3, p4, p5, p6, p7, p8, p9⟩ := hpass
  have hp' := hp
  simp only [State.polling, Bool.and_eq_true, beq_iff_eq] at hp'
  cases k with
  | zero =>
    have hd : s.dev.statusRead = s.dev.commit := by simp [MemDevice.statusRead, hw, hk]
    rw [hd] at p1 p3 p5 p9
    refine ⟨pollPass s, ?_, ?_, ?_, ?_⟩
    · rw [run_succ 0 s _ (step_polling s hp), run_zero]
    · unfold State.polled
      ext1 <;> simp [p1, p2, p4, p5, p6, p7, MemDevice.commit, MemDevice.finished, hk]
    · rw [p3, statusOf_bit_zero]
      rfl
    · exact ⟨_, p9, by simp [Event.isStatusRead]⟩
  | succ k =>
    have hd : s.dev.statusRead = { s.dev with kLeft := .fin k } := by simp [MemDevice.statusRead, hw, hk]
    rw [hd] at p1 p3 p5 p9
    simp only [hw, if_true] at p1
    have hq : (pollPass s).polling = true := by simp [State.polling, hp', p1]
    obtain ⟨u, r1, r2, r3, es, r4, r5⟩ := poll_finishes k (pollPass s) hq (by simp [p5, hw]) (by simp [p5])
      (by simp only [p2, pollPass_cfg]; rwa [show s.pollCnt + 1 + (k + 1) = s.pollCnt + (k + 1 + 1) by omega])
      (fun i hi => by
        rw [result_shift s (pollPass s) 2 i (by simp) p6]
        exact hr _ (by omega))
    refine ⟨u, ?_, ?_, r3, ?_⟩
    · rw [run_succ _ s _ (step_polling s hp), afterPersist_active _ (by simp [p1, hp']), r1]
    · unfold State.polled at r2 ⊢
      rw [r2]
      ext1 <;> simp [p2, p4, p5, p6, p7, MemDevice.finished] <;> omega
    · refine ⟨_, by rw [r4, p9, List.append_assoc], ?_⟩
      rw [List.countP_append, r5]
      simp [Event.isStatusRead]
      omega

/-- A poll under a finite POLL_LIMIT ends, whatever the bus and the device answer. -/
theorem poll_ends (m l : Nat) (s : State) (hp : s.polling = true) (hl : s.cfg.pollLimit = .fin l)
    (hm : s.pollCnt + m = l) :
    ∃ n u, core.run n s = .next (afterPersist u) ∧
      u = { s with
        mwState := .idle, pollCnt := u.pollCnt, statusByte := u.statusByte, err := u.err, dev := u.dev
        busCalls := u.busCalls, draws := u.draws, trace := u.trace, programs := u.programs } := by
  have hp' := hp
  simp only [State.polling, Bool.and_eq_true, beq_iff_eq] at hp'
  have hone : core.run 1 s = .next (afterPersist (pollPass s)) := by
    rw [run_succ 0 s _ (step_polling s hp), run_zero]
  by_cases hi : (pollPass s).mwState = .idle
  · exact ⟨1, pollPass s, hone, by ext1 <;> simp [hi]⟩
  · have hq : (pollPass s).mwState = .poll := by
      rcases pollPass_mwState s with h | h
      · rw [h, hp'.2]
      · exact absurd h hi
    have hne : s.cfg.pollLimit ≠ .fin s.pollCnt := by
      intro e
      rw [pollPass_exhausted s ((pollExhausted_iff s).mpr e)] at hi
      exact hi rfl
    have hc : (pollPass s).pollCnt = s.pollCnt + 1 := by rw [pollPass_pollCnt, if_neg hne]
    cases m with
    | zero => exact absurd (by rw [hl, ← hm, Nat.add_zero]) hne
    | succ m =>
      obtain ⟨n, u, h1, h2⟩ := poll_ends m l (pollPass s) (by simp [State.polling, hp', hq]) (by simpa using hl)
        (by omega)
      refine ⟨n + 1, u, ?_, ?_⟩
      · rw [run_succ _ s _ (step_polling s hp), afterPersist_active _ hi, h1]
      · rw [h2]
        ext1 <;> simp

/-! ## The write of a page -/

/-- MW.PAGEWRITE past its two checks. -/
theorem pageWrite_accepted (a : StorageAddr) (n : Nat) (d : List Byte) (s : State) (hr : inRange s.cfg a n = true)
    (hp : inPage s.cfg a n = true) (hd : d.length = n) :
    pageWrite a n d s = waitRdy (frameOut (programBytes a d) .mwProgramTx (mwWren .program s)) := by
  simp [pageWrite, hr, hp, List.take_of_length_le (Nat.le_of_eq hd)]

/-- A list of events of which none is an action and none transmits anything but read-status. -/
def Silent (es : List Event) : Prop := ∀ e ∈ es, e.action? = none ∧ e.transmitsCommand = false

theorem Silent.actions {es : List Event} (h : Silent es) : es.filterMap Event.action? = [] :=
  List.filterMap_eq_nil_iff.mpr fun e he => (h e he).1

theorem Silent.commands {es : List Event} (h : Silent es) : ∀ e ∈ es, e.transmitsCommand = false := fun e he => (h e he).2

theorem failureReport_silent (r : BusResult) (x : Site) : Silent (failureReport r x) := by
  cases r <;> simp [Silent, failureReport, Event.action?, Event.transmitsCommand]

theorem degradedReport_silent (r : BusResult) : Silent (degradedReport r) := by
  cases r <;> simp [Silent, degradedReport, Event.action?, Event.transmitsCommand]

@[simp] theorem failureReport_actions (r : BusResult) (x : Site) : (failureReport r x).filterMap Event.action? = [] :=
  (failureReport_silent r x).actions

@[simp] theorem degradedReport_actions (r : BusResult) : (degradedReport r).filterMap Event.action? = [] :=
  (degradedReport_silent r).actions

/-- One pass of the poll appends silent events. -/
theorem pollPass_trace (s : State) : ∃ es, (pollPass s).trace = s.trace ++ es ∧ Silent es := by
  unfold pollPass
  split
  · exact ⟨[.rpt (.cause .writeTimedOut) .mwPollLimit], rfl, by simp [Silent, Event.action?, Event.transmitsCommand]⟩
  · refine ⟨_, by rw [takeStatus_trace, frameIn_trace], ?_⟩
    intro e he
    simp only [List.mem_append, List.mem_cons, List.not_mem_nil, or_false, or_assoc] at he
    rcases he with rfl | rfl | he | rfl | he | rfl <;>
      first
        | exact failureReport_silent _ _ e he
        | simp [Event.action?, Event.transmitsCommand, opRdsr]

/-- MW.PAGEWRITE past its two checks appends its two frames and then silent events. -/
theorem pageWrite_trace (a : StorageAddr) (n : Nat) (d : List Byte) (s : State) (hr : inRange s.cfg a n = true)
    (hp : inPage s.cfg a n = true) (hd : d.length = n) :
    ∃ es, (pageWrite a n d s).trace = s.trace ++
        ([.sel, .tx [0x06#8] (s.result 0)] ++ failureReport (s.result 0) .mwWrenTx ++ [.des] ++
          [.sel, .tx (programBytes a d) (s.result 1)] ++ failureReport (s.result 1) .mwProgramTx ++ [.des] ++ es) ∧
      Silent es := by
  rw [pageWrite_accepted a n d s hr hp hd]
  have h1 : (mwWren .program s).result 0 = s.result 1 := result_shift s _ 1 0 (by simp) (by simp [mwWren])
  have h0 : State.result { s with mwState := MwState.wren } 0 = s.result 0 := rfl
  obtain ⟨es, he, hs⟩ := pollPass_trace
    { frameOut (programBytes a d) .mwProgramTx (mwWren .program s) with mwState := .poll, pollCnt := 0 }
  refine ⟨es, ?_, hs⟩
  have ht : (mwWren .program s).trace =
      s.trace ++ ([.sel, .tx [0x06#8] (s.result 0)] ++ failureReport (s.result 0) .mwWrenTx ++ [.des]) := by
    show (frameOut _ _ _).trace = _
    rw [frameOut_trace, h0]
    rfl
  refine he.trans ?_
  show (frameOut _ _ _).trace ++ es = _
  rw [frameOut_trace, h1, ht]
  simp

/-- A pass below the limit sets BUS_FAIL exactly where its frame failed. -/
theorem pollPass_err (s : State) (hx : pollExhausted s = false) :
    (pollPass s).err = busFail (frameInResult s) s.err := by
  cases h : frameInResult s with
  | ok => exact (pollPass_ok s hx h).2.2.2.1
  | failed => exact (pollPass_failed s hx h).2.2.2.1

/-- Two failures noted one after the other are one. -/
theorem busFail_busFail (a b : BusResult) (e : BitVec 5) : busFail a (busFail b e) = busFail (bothOk b a) e := by
  cases a <;> cases b <;> simp [busFail, bothOk, BitVec.or_assoc]

/-- A legal POLL_LIMIT admits the first frame of a poll. -/
theorem pollAdmits_one (p : Params) (h : p.legal = true) : pollAdmits p 1 = true := by
  have h0 : p.pollLimit ≠ .fin 0 := by
    simp only [Params.legal, Bool.and_eq_true, bne_iff_ne] at h
    exact h.2
  unfold pollAdmits
  split
  · rfl
  · rename_i l hl
    rw [hl] at h0
    simp only [ne_eq, NatInf.fin.injEq] at h0
    simp only [decide_eq_true_eq]
    omega

/-- MW.PAGEWRITE past its two checks sets BUS_FAIL exactly where one of its two frames or the first status frame failed. -/
theorem pageWrite_err (a : StorageAddr) (n : Nat) (d : List Byte) (s : State) (hr : inRange s.cfg a n = true)
    (hp : inPage s.cfg a n = true) (hd : d.length = n) (hl : s.cfg.legal = true) :
    (pageWrite a n d s).err =
      busFail (bothOk (bothOk (s.result 0) (s.result 1)) (bothOk (s.result 2) (s.result 3))) s.err := by
  rw [pageWrite_accepted a n d s hr hp hd]
  let w := frameOut (programBytes a d) .mwProgramTx (mwWren .program s)
  let q : State := { w with mwState := .poll, pollCnt := 0 }
  have hx : pollExhausted q = false := pollExhausted_of_admits q (by simpa [q, w] using pollAdmits_one _ hl)
  have h1 : (mwWren .program s).result 0 = s.result 1 := result_shift s _ 1 0 (by simp) (by simp [mwWren])
  have h2 : q.result 0 = s.result 2 := result_shift s _ 2 0 (by simp [q, w]) (by simp [q, w, mwWren])
  have h3 : q.result 1 = s.result 3 := result_shift s _ 2 1 (by simp [q, w]) (by simp [q, w, mwWren])
  have he : q.err = busFail (s.result 1) (busFail (s.result 0) s.err) := by
    show w.err = _
    rw [frameOut_err, h1]
    congr 1
    show (frameOut _ _ _).err = _
    rw [frameOut_err]
    rfl
  show (pollPass q).err = _
  rw [pollPass_err q hx, he, frameInResult, h2, h3, busFail_busFail, busFail_busFail, bothOk_assoc]

/-- Where the write engine is at rest, what follows is `State.afterWrite`. -/
theorem afterPersist_eq (s : State) (h : s.mwState = .idle) :
    afterPersist s =
      { s with
        loState := s.afterWrite.1, done := s.afterWrite.2.1, trace := s.trace ++ s.afterWrite.2.2 } := by
  unfold afterPersist State.afterWrite
  by_cases hl : s.loState = .persist
  · by_cases hm : s.logAddr.toNat + 2 < s.cfg.capacity <;> simp [hl, h, moreSlots, hm, setDone, log]
  · simp [hl]

/-- The machine between the program frame and the first status frame of a write, both frames `Ok` and WIP = 0. -/
def programmed (a : StorageAddr) (d : List Byte) (s : State) : State :=
  { s with
    mwState := .program
    dev := { s.dev with
      pend := placeBytes s.cfg a.toNat 0 d s.dev.pend, wel := true, wip := true, kLeft := s.cycle 0
      selected := false }
    busCalls := s.busCalls + 2, programs := s.programs + 1, draws := s.draws + 2
    trace := s.trace ++ [.sel, .tx [opWren] .ok, .des, .sel, .tx (programBytes a d) .ok, .des] }

theorem frames_programmed (a : StorageAddr) (n : Nat) (d : List Byte) (s : State) (hr : inRange s.cfg a n = true)
    (hp : inPage s.cfg a n = true) (hd : d.length = n) (hw : s.dev.wip = false) (h0 : s.result 0 = .ok)
    (h1 : s.result 1 = .ok) :
    frameOut (programBytes a d) .mwProgramTx (mwWren .program s) = programmed a d s := by
  have ht := targetsExist_of_checks s.cfg a n hr hp
  rw [← hd] at ht
  have hne : d ≠ [] := by
    rintro rfl
    simp only [inRange, Bool.and_eq_true, decide_eq_true_eq] at hr
    simp only [List.length_nil] at hd
    omega
  have e0 : State.result { s with mwState := MwState.wren } 0 = .ok := h0
  have hdev : (mwWren .program s).dev = { s.dev with wel := true, selected := false } := by
    simp [mwWren, frameOut_dev, e0, MemDevice.hears, MemDevice.complete, hw]
  have hprog : (mwWren .program s).programs = s.programs := by
    simp [mwWren, frameOut_programs, MemDevice.starts]
  have hcalls : (mwWren .program s).busCalls = s.busCalls + 1 := by simp [mwWren]
  have hdraws : (mwWren .program s).draws = s.draws + 1 := by simp [mwWren]
  have htrace : (mwWren .program s).trace = s.trace ++ [.sel, .tx [opWren] .ok, .des] := by
    simp [mwWren, e0, failureReport]
  have herr : (mwWren .program s).err = s.err := by simp [mwWren, e0, busFail]
  have hmw : (mwWren .program s).mwState = .program := rfl
  have e1 : (mwWren .program s).result 0 = .ok := by rw [result_shift s _ 1 0 (by simp) hcalls, h1]
  have ec : (mwWren .program s).cycle 0 = s.cycle 0 := cycle_same _ _ _ (by simp) hprog
  ext1
  case dev =>
    rw [frameOut_dev, hdev, e1, ec, parse_program a d hne]
    simp [MemDevice.hears, MemDevice.complete, MemDevice.program, ht, hw, programmed]
  case programs =>
    rw [frameOut_programs, hdev, e1, hprog, parse_program a d hne]
    simp [MemDevice.starts, hw, ht, programmed]
  case err => simp [programmed, e1, herr, busFail]
  case mwState => simp [programmed, hmw]
  case trace => simp [programmed, htrace, e1, failureReport]
  case busCalls => simp [programmed, hcalls]
  case draws => simp [programmed, hdraws]
  all_goals simp [programmed]

/-- MEM when the bytes of a write without page crossing, PEND empty before, have been committed. -/
theorem read_written (p : Params) (a : StorageAddr) (n : Nat) (d : List Byte) (m : List Host.Cell) (x : Nat)
    (hp : inPage p a n = true) (hd : d.length = n) (hm : Memory.wf m) :
    Memory.read x (Memory.writeCells (placeBytes p a.toNat 0 d []) m) =
      if a.toNat ≤ x ∧ x < a.toNat + n then d.getD (x - a.toNat) 0#8 else Memory.read x m := by
  simp only [inPage, decide_eq_true_eq] at hp
  have ht : ∀ i, i < n → pageTarget p a.toNat i = a.toNat + i := fun i hi => pageTarget_inside _ _ _ (by omega)
  rw [Memory.read_writeCells _ _ _ (placeBytes_rising _ _ _ _ _ .nil) hm]
  split
  · rename_i hx
    have h := placeBytes_at p a.toNat 0 (x - a.toNat) d [] .nil (by omega) (fun k h3 h4 => by
      rw [Nat.zero_add, Nat.zero_add, ht k (by omega), ht _ (by omega)]
      omega)
    rw [Nat.zero_add, ht _ (by omega), show a.toNat + (x - a.toNat) = x by omega] at h
    rw [h, List.getD_eq_getElem?_getD]
    have hlt : x - a.toNat < d.length := by omega
    simp [hlt]
  · rename_i hx
    rw [placeBytes_other _ _ _ _ _ _ .nil (fun j _ hj => by
      rw [ht j (by omega)]
      omega)]
    rfl

/-- A whole write, every primitive `Ok`, over a ready device that reports WIP set k times: after k further steps the poll
is over, the bytes stand in MEM and nothing else of State but the write engine's registers and the counters moved. -/
theorem write_finishes (a : StorageAddr) (n k : Nat) (d : List Byte) (s : State) (hs : s.scState = .idle)
    (hmr : s.mrState = .idle) (hr : inRange s.cfg a n = true) (hp : inPage s.cfg a n = true) (hd : d.length = n)
    (hw : s.dev.wip = false) (hpe : s.dev.pend = []) (hk : s.cycle 0 = .fin k)
    (ha : pollAdmits s.cfg (k + 1) = true) (hok : s.okFor (2 * k + 4)) :
    ∃ u, core.run k (afterPersist (pageWrite a n d s)) = .next (afterPersist u) ∧
      u = { s with
        mwState := .idle, pollCnt := k + 1, statusByte := u.statusByte
        dev := { s.dev with
          mem := Memory.writeCells (placeBytes s.cfg a.toNat 0 d []) s.dev.mem, wel := false, kLeft := .fin 0
          selected := false }
        busCalls := s.busCalls + (2 * k + 4), programs := s.programs + 1, draws := u.draws, trace := u.trace } := by
  have e2 := pageWrite_accepted a n d s hr hp hd
  rw [frames_programmed a n d s hr hp hd hw (hok 0 (by omega)) (hok 1 (by omega))] at e2
  let q : State := { programmed a d s with mwState := .poll, pollCnt := 0 }
  have e3 : pageWrite a n d s = pollPass q := e2
  have hq : q.polling = true := by simp [q, State.polling, programmed, hs, hmr]
  obtain ⟨u, h1, h2, -⟩ := poll_finishes k q hq rfl (by simp [q, programmed, hk]) (by simpa [q, programmed] using ha)
    (fun i hi => by
      rw [result_shift s q 2 i rfl rfl]
      exact hok _ (by omega))
  rw [run_succ k q _ (step_polling q hq), ← e3] at h1
  refine ⟨u, h1, ?_⟩
  unfold State.polled at h2
  rw [h2]
  ext1
  case busCalls =>
    simp only [q, programmed]
    omega
  all_goals simp [q, programmed, MemDevice.finished, hpe, hw]

end Sys2Proof.Machine
end

