-- ==== Sys2Proof/Tests/Slice0.lean ====
section
/-! SUPPORT. Tests of the model against the vectors of 95_test_vectors (V, S and P numbers), one word written out from
30_encoding for every constructor, the refusals of WellFormed, and a witness for the hypotheses of every statement. -/

namespace Sys2Proof.Tests

open Sys2Proof Sys2Proof.Machine

/-! ## Machines to test on -/

/-- The reference configuration of 95_test_vectors: SA8 = 0x90, CFG_SHUTDOWN = 0x01, CFG_ONESHOT = 0x81. -/
def refCfg : Params :=
  { capacity := 8192, pageSize := 32, periodMs := 1000, convDelayMs := 30, sensorAddr7 := 0x48#7
    broadcastAddr8 := 0x00#8, sdMask := 0x01#8, osMask := 0x80#8, cfgBase := 0x00#8, pollLimit := .inf }

/-- A device of 4 bytes in pages of 2, at most 3 status frames in a poll. -/
def tinyCfg : Params := { refCfg with capacity := 4, pageSize := 2, pollLimit := .fin 3 }

/-- CORE at rest after a hardware reset, the devices ready, MEM all zero, the given environment to come. -/
def rest (p : Params) (rs : List BusResult) (ss : List (Byte × Byte)) (ks : List NatInf) : State :=
  { cfg := p, scState := .idle, sampleHi := 0x19#8, sampleLo := 0x00#8, raw12 := 0x190#12, mwState := .idle
    pollCnt := 0, statusByte := 0xAA#8, mrState := .idle, rdata := [0x19#8, 0x00#8], loState := .idle
    logAddr := 0#16, done := false, err := 0#5
    dev := { mem := [], wel := false, wip := false, pend := [], kLeft := .fin 0, selected := false }
    sensor := { pointer := 0#8, config := 0#8, converting := false }
    requests := [], trace := [], script := { results := rs, samples := ss, cycles := ks }
    busCalls := 0, samples := 0, programs := 0, draws := 1 }

/-- n primitives that return `Ok`. -/
def oks (n : Nat) : List BusResult := List.replicate n .ok

/-- The reference machine, everything `Ok`. -/
def ready : State := rest refCfg (oks 30) [(0x19#8, 0x00#8)] [.fin 0]

/-- The state an outcome answers, if it answers one. -/
def nextOf : Host.Outcome State Fault Refusal → Option State
  | .next t => some t
  | .fault _ => none
  | .refused _ => none

/-! ## WellFormed refuses what no format carries -/

theorem test_wellFormed_pagewrite_length : Instr.wellFormed (.mwPageWrite 0#16 2 [0xAA#8]) = false := by decide
theorem test_wellFormed_devRead_none : Instr.wellFormed (.devRead 0#16 0) = false := by decide
theorem test_wellFormed_devWrite_none : Instr.wellFormed (.devWrite 0#16 []) = false := by decide
theorem test_wellFormed_pagewrite : Instr.wellFormed (.mwPageWrite 0#16 2 [0xAA#8, 0xBB#8]) = true := by decide

/-! ## Decoding, words written out from 30_encoding R92 to R102 -/

theorem test_decode_scReset : decode refCfg (.command 0b000#3 0#16 0 []) = .instr .scReset := by decide
theorem test_decode_scConfig : decode refCfg (.command 0b001#3 0#16 0 []) = .instr .scConfig := by decide
theorem test_decode_scRead : decode refCfg (.command 0b010#3 0#16 0 []) = .instr .scRead := by decide
theorem test_decode_mwWren : decode refCfg (.command 0b011#3 0xFFFF#16 7 [0x55#8]) = .instr .mwWren := by decide
theorem test_decode_mwPageWrite : decode refCfg (.command 0b100#3 0x0010#16 2 [0xDE#8, 0xAD#8]) =
    .instr (.mwPageWrite 0x0010#16 2 [0xDE#8, 0xAD#8]) := by decide
theorem test_decode_mwWaitRdy : decode refCfg (.command 0b101#3 0#16 0 []) = .instr .mwWaitRdy := by decide
theorem test_decode_mrRead : decode refCfg (.command 0b110#3 0x1FFE#16 2 []) = .instr (.mrRead 0x1FFE#16 2) := by decide
theorem test_decode_loRun : decode refCfg (.command 0b111#3 0#16 0 []) = .instr .loRun := by decide
theorem test_decode_devRead : decode refCfg (.memFrame [0b00000011#8, 0x12#8, 0x34#8] 2) = .instr (.devRead 0x1234#16 2) := by
  decide
theorem test_decode_devWrite : decode refCfg (.memFrame [0b00000010#8, 0x01#8, 0x00#8, 0xAA#8] 0) =
    .instr (.devWrite 0x0100#16 [0xAA#8]) := by decide
theorem test_decode_devWrdi : decode refCfg (.memFrame [0b00000100#8] 0) = .instr .devWrdi := by decide
theorem test_decode_devWren : decode refCfg (.memFrame [0b00000110#8] 0) = .instr .devWren := by decide
theorem test_decode_devRdsr : decode refCfg (.memFrame [0b00000101#8] 1) = .instr .devRdsr := by decide
theorem test_decode_devWrsr : decode refCfg (.memFrame [0b00000001#8, 0x0C#8] 0) = .instr (.devWrsr [0x0C#8]) := by decide
theorem test_decode_senReset : decode refCfg (.twiWrite 0x00#8 [0b00000110#8]) = .instr .senReset := by decide
theorem test_decode_senConfig : decode refCfg (.twiWrite 0x90#8 [0b00000001#8, 0x81#8]) = .instr (.senConfig 0x81#8) := by
  decide
theorem test_decode_senPointer : decode refCfg (.twiWrite 0x90#8 [0b00000000#8]) = .instr .senPointer := by decide
theorem test_decode_senRead : decode refCfg (.twiRead 0x90#8 2) = .instr .senRead := by decide
/-- 20_memory R79, 30_encoding R109. -/
theorem test_decode_unlisted : decode refCfg (.memFrame [0x07#8] 0) = .rejected .frame ∧
    decode refCfg (.twiWrite 0x92#8 [0x00#8]) = .rejected .sensorWrite ∧
    decode refCfg (.twiRead 0x92#8 2) = .rejected .sensorRead := by decide
/-- 30_encoding R91: data is a sequence of len bytes. -/
theorem test_decode_malformed : decode refCfg (.command 0b100#3 0#16 2 [0xAA#8]) = .rejected .dataLength := by decide
theorem test_tableWord : decodeTableWord 8 0x7 = some .loRun ∧ decodeTableWord 8 0x4 = some (.mwPageWrite 0#16 0 []) := by
  decide

/-! ## Operands (V1 to V19b) -/

theorem test_sample_V1_V9d : [(0x19, 0x00), (0x00, 0x10), (0x19, 0x0F), (0x01, 0x23), (0x1A, 0x50), (0x7F, 0xF0),
      (0x80, 0x00), (0xE7, 0x00), (0xFF, 0xFF)].map (fun x : Nat × Nat =>
        (decodeSample (BitVec.ofNat 8 x.1) (BitVec.ofNat 8 x.2)).toNat) =
    [400, 1, 400, 18, 421, 2047, 2048, 3696, 4095] := by decide
theorem test_address_V13_V14 : readBytes 0x0100#16 = [0x03#8, 0x01#8, 0x00#8] ∧
    readBytes 0x1FFE#16 = [0x03#8, 0x1F#8, 0xFE#8] := by decide
theorem test_sa8_V16_V18 : refCfg.sa8 = 0x90#8 ∧ ({ refCfg with sensorAddr7 := 0x7F#7 } : Params).sa8 = 0xFE#8 := by decide
theorem test_config_V19b : ({ refCfg with cfgBase := 0x60#8 } : Params).cfgShutdown = 0x61#8 ∧
    ({ refCfg with cfgBase := 0x60#8 } : Params).cfgOneshot = 0xE1#8 := by decide

/-! ## Instructions, one step each -/

/-- V80. -/
theorem test_scReset_failed : (nextOf (exec .scReset (rest refCfg [.failed] [] []))).map (fun t => (t.err, t.trace)) =
    some (0b00001#5, [.tw 0x00#8 [0x06#8] .failed, .rpt (.cause .busTransferFailed) .scResetTx]) := by decide
/-- V81. -/
theorem test_scReset_ok : (nextOf (exec .scReset { ready with err := 0b00001#5 })).map (fun t => (t.err, t.trace)) =
    some (0b00001#5, [.tw 0x00#8 [0x06#8] .ok, .rpt .ok .scResetTx]) := by decide
/-- P1, events 4 and 5. -/
theorem test_scConfig : (nextOf (exec .scConfig ready)).map (fun t => (t.trace, t.sensor.config)) =
    some ([.tw 0x90#8 [0x01#8, 0x01#8] .ok, .rpt .ok .scConfigTx], 0x01#8) := by decide
/-- S1; P1, events 6 to 9. -/
theorem test_scRead : (nextOf (exec .scRead ready)).map (fun t => (t.raw12, t.trace)) =
    some (0x190#12, [.tw 0x90#8 [0x01#8, 0x81#8] .ok, .dly 30, .tw 0x90#8 [0x00#8] .ok,
      .tr 0x90#8 2 .ok [0x19#8, 0x00#8]]) := by decide
/-- V82: the first transfer fails, the bytes read are kept. -/
theorem test_scRead_degraded : (nextOf (exec .scRead (rest refCfg (.failed :: oks 2) [(0xE7#8, 0x0F#8)] []))).map
      (fun t => (t.err, t.sampleHi, t.sampleLo, t.raw12, t.trace.getLast?)) =
    some (0b00011#5, 0xE7#8, 0x0F#8, 0xE70#12, some (.rpt (.cause .acquisitionDegraded) .scReadDecoded)) := by decide
/-- V90. -/
theorem test_mwWren_failed : (nextOf (exec .mwWren (rest refCfg [.failed] [] []))).map (fun t => (t.mwState, t.trace)) =
    some (.idle, [.sel, .tx [0x06#8] .failed, .rpt (.cause .busTransferFailed) .mwWrenTx, .des]) := by decide
/-- 41_memory_write_engine R140: the latch. -/
theorem test_mwWren : (nextOf (exec .mwWren ready)).map (fun t => (t.dev.wel, t.err)) = some (true, 0#5) := by decide
/-- P5, V21. -/
theorem test_mwPageWrite_boundary : (nextOf (exec (.mwPageWrite 31#16 2 [0xAA#8, 0xBB#8]) ready)).map
      (fun t => (t.err, t.trace, t.dev == ready.dev)) =
    some (0b00100#5, [.rpt (.cause .boundaryHazard) .mwPageWriteCheck], true) := by decide
/-- V32: the sum is not truncated; V29: the range check comes first. -/
theorem test_mwPageWrite_range : (nextOf (exec (.mwPageWrite 0xFFFF#16 2 [0#8, 0#8]) ready)).map (fun t => t.trace) =
      some [.rpt (.cause .commandRefused) .cmdCheck] ∧
    (nextOf (exec (.mwPageWrite 8191#16 2 [0#8, 0#8]) ready)).map (fun t => t.err) = some 0b10000#5 := by decide
/-- V44's first pass: the poll goes on while the status byte's bit 0 is 1. -/
theorem test_mwWaitRdy_busy :
    (nextOf (exec .mwWaitRdy { ready with dev := { ready.dev with wip := true, kLeft := .fin 2 } })).map
      (fun t => (t.pollCnt, t.dev.kLeft)) = some (1, .fin 1) := by decide
/-- V49's last pass: POLL_CNT = POLL_LIMIT, no frame is sent. -/
theorem test_mwWaitRdy_limit : (nextOf (step { rest tinyCfg (oks 9) [] [] with mwState := .poll, pollCnt := 3 })).map
      (fun t => (t.mwState, t.err, t.trace)) =
    some (.idle, 0b01000#5, [.rpt (.cause .writeTimedOut) .mwPollLimit]) := by decide
/-- P2's second command. -/
theorem test_mrRead : (nextOf (exec (.mrRead 0x0010#16 2)
      { ready with dev := { ready.dev with mem := [(0x10, 0xDE#8), (0x11, 0xAD#8)] } })).map (fun t => (t.rdata, t.trace)) =
    some ([0xDE#8, 0xAD#8],
      [.sel, .tx [0x03#8, 0x00#8, 0x10#8] .ok, .rx 2 .ok [0xDE#8, 0xAD#8], .des]) := by decide
/-- V35. -/
theorem test_mrRead_refused : (nextOf (exec (.mrRead 0x1FFF#16 2) ready)).map (fun t => (t.err, t.rdata)) =
    some (0b10000#5, [0x19#8, 0x00#8]) := by decide
/-- V85. -/
theorem test_loRun_done : (nextOf (exec .loRun { ready with loState := .done, done := true })).map
      (fun t => (t.err, t.done, t.trace)) = some (0b10000#5, true, [.rpt (.cause .commandRefused) .cmdCheck]) := by decide
/-- P1, event 1. -/
theorem test_loRun : (nextOf (exec .loRun { ready with done := true })).map (fun t => (t.loState, t.done, t.trace)) =
    some (.resetting, false, [.ind false]) := by decide
/-- V70. -/
theorem test_lo_pace : (nextOf (step { ready with loState := .pace, logAddr := 4#16 })).map
      (fun t => (t.loState, t.logAddr, t.trace)) = some (.acquire, 6#16, [.dly 1000]) := by decide
/-- V74: with CAPACITY = 65536 the last slot is 65534, the sum having 17 bits; the poll ends by its limit. -/
theorem test_lo_last_slot : (nextOf (step
      { rest { refCfg with capacity := 65536, pollLimit := .fin 1 } [] [] [] with
        loState := .persist, logAddr := 65534#16, mwState := .poll, pollCnt := 1 })).map
      (fun t => (t.loState, t.done, t.logAddr)) = some (.done, true, 65534#16) := by decide
/-- 20_memory R70. -/
theorem test_devRead : (nextOf (exec (.devRead 0x0010#16 2)
      { ready with dev := { ready.dev with mem := [(0x11, 0xAD#8)] } })).map (fun t => t.trace) =
    some [.sel, .tx [0x03#8, 0x00#8, 0x10#8] .ok, .rx 2 .ok [0x00#8, 0xAD#8], .des] := by decide
/-- V50, V51: the wrap inside the page. -/
theorem test_devWrite_wraps : (nextOf (exec (.devWrite 0x001F#16 [0xAA#8, 0xBB#8])
        { ready with dev := { ready.dev with wel := true } })).map (fun t => t.dev.pend) =
      some [(0x00, 0xBB#8), (0x1F, 0xAA#8)] ∧
    (nextOf (exec (.devWrite 0x003F#16 [0xAA#8, 0xBB#8])
        { ready with dev := { ready.dev with wel := true } })).map (fun t => t.dev.pend) =
      some [(0x20, 0xBB#8), (0x3F, 0xAA#8)] := by decide
/-- 20_memory R72: CORE is as it was. -/
theorem test_devWrdi : (nextOf (exec .devWrdi (rest tinyCfg [] [] []))).map (fun t => (t.trace, t.dev.selected, t.err)) =
    some ([.sel, .tx [0x04#8] .ok, .des], false, 0#5) := by decide
/-- 20_memory R73. -/
theorem test_devWren : (nextOf (exec .devWren ready)).map (fun t => t.dev) =
    some { ready.dev with wel := true } := by decide
/-- 20_memory R74, R78: a status read with K_LEFT = 0 commits, a zero byte being listed no more. -/
theorem test_devRdsr_commits : (nextOf (exec .devRdsr
      { ready with dev := { ready.dev with wip := true, wel := true, pend := [(4, 0x19#8), (5, 0x00#8)], mem := [(5, 0x77#8)] } })).map
      (fun t => t.dev) = some { ready.dev with mem := [(4, 0x19#8)] } := by decide
/-- 20_memory R75. -/
theorem test_devWrsr : (nextOf (exec (.devWrsr [0x0C#8]) (rest tinyCfg [] [] []))).map (fun t => (t.trace, t.loState)) =
    some ([.sel, .tx [0x01#8, 0x0C#8] .ok, .des], .idle) := by decide
/-- 20_memory R80. -/
theorem test_senReset : (nextOf (exec .senReset ready)).map (fun t => (t.trace, t.dev)) =
    some ([.tw 0x00#8 [0x06#8] .ok], ready.dev) := by decide
/-- 20_memory R81. -/
theorem test_senConfig : (nextOf (exec (.senConfig 0x81#8) ready)).map (fun t => t.sensor) =
    some { pointer := 0x01#8, config := 0x81#8, converting := true } := by decide
/-- 20_memory R82. -/
theorem test_senPointer : (nextOf (exec .senPointer { ready with sensor := { ready.sensor with pointer := 0x01#8 } })).map
      (fun t => t.sensor.pointer) = some 0x00#8 := by decide
/-- 20_memory R83, R84. -/
theorem test_senRead : (nextOf (exec .senRead ready)).map (fun t => (t.trace, t.samples)) =
    some ([.tr 0x90#8 2 .ok [0x19#8, 0x00#8]], 1) := by decide
/-- V86. -/
theorem test_hardReset : (nextOf (step { ready with err := 0b11111#5, requests := [.hardReset] })).map
      (fun t => (t.err, t.trace, t.rdata, t.loState)) = some (0#5, [], [], .idle) := by decide

/-! ## Witnesses: for every statement with hypotheses, a state and operands that meet all of them together -/

/-- A program operation is in flight on the device of p: PEND holds two bytes, K_LEFT = k. -/
def inFlight (p : Params) (k : NatInf) : State :=
  { rest p (oks 30) [] [] with
    dev :=
      { mem := [(5, 0x77#8)], wel := true, wip := true, pend := [(4, 0x19#8), (5, 0x00#8)], kLeft := k
        selected := false } }

/-- The tiny machine with all that a complete LO.RUN needs: K_LEFT = 1, then 0. -/
def logger : State := rest tinyCfg (oks 30) [(0x19#8, 0x00#8), (0xE7#8, 0x0F#8)] [.fin 1, .fin 0]

/-- The reference machine with a transmit that returns `Ok` and then a failure. -/
def faulty : State := rest refCfg [.ok, .failed] [] []

theorem inv_logger : Inv logger := by
  constructor <;> decide

theorem inv_logger_pace : Inv { logger with loState := .pace, logAddr := 0#16 } := by
  constructor <;> decide

theorem inv_logger_configuring : Inv { logger with loState := .configuring, logAddr := 2#16 } := by
  constructor <;> decide

theorem ready_okFor : ready.okFor 4 := by
  unfold State.okFor
  decide

theorem witness_DecodeOfEncode : Instr.wellFormed (.mwPageWrite 0x1FFE#16 2 [0x19#8, 0x00#8]) = true ∧
    Instr.wellFormed (.mwPageWrite 0xFFFF#16 0 []) = true ∧ Instr.wellFormed (.mrRead 0xFFFF#16 65536) = true ∧
    Instr.wellFormed (.devRead 0#16 1) = true ∧ Instr.wellFormed (.devWrite 0#16 [0#8]) = true := by decide

theorem witness_DecodedIsWellFormed : decode refCfg (.command 6#3 0#16 65536 []) = .instr (.mrRead 0#16 65536) ∧
    decode refCfg (.memFrame [0x02#8, 0x00#8, 0x00#8, 0x19#8] 0) = .instr (.devWrite 0#16 [0x19#8]) := by decide

theorem witness_EncodeOfDecodedTransfer :
    (∀ op a n d, Request.memFrame [0x03#8, 0x12#8, 0x34#8] 1 ≠ .command op a n d) ∧
      decode refCfg (.memFrame [0x03#8, 0x12#8, 0x34#8] 1) = .instr (.devRead 0x1234#16 1) := by
  refine ⟨fun _ _ _ _ h => ?_, by decide⟩
  cases h

theorem witness_EveryCommandCodeIsAnOperation : (4#3 = 4#3 → [0xDE#8, 0xAD#8].length = 2) ∧
    (7#3 = 4#3 → [0xDE#8].length = 5) := by decide

theorem witness_StepExecutesDecodedRequest :
    let s : State := { ready with requests := [.command 6#3 0x1FFE#16 2 []] }
    s.busy = false ∧ s.requests = .command 6#3 0x1FFE#16 2 [] :: [] ∧
      decode s.cfg (.command 6#3 0x1FFE#16 2 []) = .instr (.mrRead 0x1FFE#16 2) := by decide

theorem witness_FetchedWordIsExecuted : decodeTableWord 8 6 = some (.mrRead 0#16 0) ∧
    decodeTableWord 8 7 = some .loRun := by decide

theorem witness_IdleCoreWaits : ready.busy = false ∧ ready.requests = [] := by decide

theorem witness_NoOperationWhileBusy : ({ ready with loState := .pace } : State).busy = true ∧
    ({ ready with mwState := .poll } : State).busy = true ∧ ({ ready with loState := .done } : State).busy = false := by
  decide

/-- For every statement whose only hypothesis is BUSY = 0. -/
theorem witness_idle : ready.busy = false ∧ logger.busy = false ∧ faulty.busy = false := by decide

theorem witness_HardwareResetSetsRegisters :
    let s : State := { ready with requests := [.hardReset], err := 0b11111#5 }
    s.busy = false ∧ s.requests = .hardReset :: [] := by decide

theorem witness_UnlistedTransferLeavesCoreAlone :
    let s : State := { ready with requests := [.memFrame [] 0] }
    s.busy = false ∧ s.requests = .memFrame [] 0 :: [] ∧ decode s.cfg (.memFrame [] 0) = .rejected .frame ∧
      decode s.cfg (.twiWrite 0x90#8 [0x06#8]) = .rejected .sensorWrite ∧
      decode s.cfg (.twiRead 0x90#8 1) = .rejected .sensorRead := by decide

theorem witness_ScConfigSelectsShutdown : ready.busy = false ∧ ready.result 0 = .ok := by decide

theorem witness_ScReadPerformsEveryStep : ready.busy = false ∧ ready.result 2 = .ok := by decide

theorem witness_SensorTakesConfigurationAndPointer : ready.busy = false ∧ 0x81#8 &&& ready.cfg.sdMask ≠ 0#8 ∧
    0x81#8 &&& ready.cfg.osMask ≠ 0#8 := by decide

theorem witness_DeviceFramesLeaveCoreAlone : ready.busy = false ∧ (0 : Nat) < 1 := by decide

theorem witness_DevReadReturnsMemory : ready.busy = false ∧ ready.dev.wip = false ∧ (1 : Nat) ≤ 2 ∧
    (0x1FFE#16).toNat + 2 ≤ ready.cfg.capacity := by decide

theorem witness_DevWriteFillsPendingPage :
    let s : State := { ready with dev := { ready.dev with wel := true } }
    s.busy = false ∧ s.cfg.legal = true ∧ s.cfg.pageSize ≤ s.cfg.capacity ∧ s.dev.wel = true ∧ s.dev.wip = false ∧
      Cells.rising s.dev.pend ∧ (0x1FFF#16).toNat < s.cfg.capacity ∧
      (List.replicate 32 0xAA#8).length ≤ s.cfg.pageSize := by decide

theorem witness_DevWrenSetsLatch : ready.busy = false ∧ ready.dev.wip = false := by decide

theorem witness_DevRdsrReportsAndCommits_ready : ready.busy = false ∧ Memory.wf ready.dev.mem ∧
    Cells.rising ready.dev.pend ∧ ready.dev.wip = false := by decide

/-- The three cases of a device with WIP = 1: K_LEFT = INF, 3 and 0. -/
theorem witness_DevRdsrReportsAndCommits_busy : ∀ k ∈ [NatInf.inf, .fin (2 + 1), .fin 0],
    (inFlight refCfg k).busy = false ∧ Memory.wf (inFlight refCfg k).dev.mem ∧
      Cells.rising (inFlight refCfg k).dev.pend ∧ (inFlight refCfg k).dev.wip = true ∧
      (inFlight refCfg k).dev.kLeft = k := by decide

theorem witness_FramesWhileBusyTouchOnlyTheirPage :
    let s := inFlight refCfg (.fin 2)
    s.busy = false ∧ s.cfg.legal = true ∧ s.cfg.pageSize ≤ s.cfg.capacity ∧ Memory.wf s.dev.mem ∧ s.dev.wip = true ∧
      (0x1FFF#16).toNat < s.cfg.capacity ∧ s.dev.wel = true ∧
      31 / s.cfg.pageSize ≠ (0x1FFF#16).toNat / s.cfg.pageSize := by decide

theorem witness_MwWrenSendsOneFrame : ready.busy = false ∧ ready.dev.wip = false ∧ ready.result 0 = .ok := by decide

/-- The edges of V30, V29, V21 and V27, one for each clause. -/
theorem witness_PageWriteChecksBeforeTheBus : ready.busy = false ∧
    ((0 : Nat) = 0 ∨ ready.cfg.capacity < (0#16).toNat + 0) ∧
    ((2 : Nat) = 0 ∨ ready.cfg.capacity < (8191#16).toNat + 2) ∧
    (¬((2 : Nat) = 0 ∨ ready.cfg.capacity < (31#16).toNat + 2) ∧
      ready.cfg.pageSize < (31#16).toNat % ready.cfg.pageSize + 2) ∧
    (¬((2 : Nat) = 0 ∨ ready.cfg.capacity < (8190#16).toNat + 2) ∧
      ¬ ready.cfg.pageSize < (8190#16).toNat % ready.cfg.pageSize + 2) := by decide

theorem witness_PageWriteSendsEnableThenProgram : faulty.busy = false ∧ (1 : Nat) ≤ 2 ∧
    (30#16).toNat + 2 ≤ faulty.cfg.capacity ∧ (30#16).toNat % faulty.cfg.pageSize + 2 ≤ faulty.cfg.pageSize ∧
    [0xDE#8, 0xAD#8].length = 2 ∧ bothOk (faulty.result 0) (faulty.result 1) = .failed ∧ faulty.cfg.legal = true := by
  decide

theorem witness_PageWriteCompletes : ready.busy = false ∧ ready.cfg.legal = true ∧ (1 : Nat) ≤ 2 ∧
    (30#16).toNat + 2 ≤ ready.cfg.capacity ∧ (30#16).toNat % ready.cfg.pageSize + 2 ≤ ready.cfg.pageSize ∧
    [0xDE#8, 0xAD#8].length = 2 ∧ ready.dev.wip = false ∧ ready.dev.pend = [] ∧ Memory.wf ready.dev.mem ∧
    ready.okFor 4 ∧ ready.cycle 0 = .fin 0 :=
  ⟨by decide, by decide, by decide, by decide, by decide, by decide, by decide, by decide, by decide, ready_okFor,
    by decide⟩

theorem witness_FailedProgramFrameSparesOtherPages : faulty.busy = false ∧ Memory.wf faulty.dev.mem ∧ (1 : Nat) ≤ 2 ∧
    (30#16).toNat + 2 ≤ faulty.cfg.capacity ∧ (30#16).toNat % faulty.cfg.pageSize + 2 ≤ faulty.cfg.pageSize ∧
    [0xDE#8, 0xAD#8].length = 2 ∧ faulty.dev.wip = false ∧ faulty.result 0 = .ok ∧ faulty.result 1 = .failed ∧
    32 / faulty.cfg.pageSize ≠ (30#16).toNat / faulty.cfg.pageSize := by decide

theorem witness_WaitRdyFirstPass_ok : ready.busy = false ∧ ready.cfg.legal = true ∧ Memory.wf ready.dev.mem ∧
    Cells.rising ready.dev.pend ∧ bothOk (ready.result 0) (ready.result 1) = .ok := by decide

theorem witness_WaitRdyFirstPass_failed : faulty.busy = false ∧ faulty.cfg.legal = true ∧ Memory.wf faulty.dev.mem ∧
    Cells.rising faulty.dev.pend ∧ bothOk (faulty.result 0) (faulty.result 1) = .failed := by decide

/-- V40. -/
theorem witness_WaitRdyCompletesWhenReady : ready.busy = false ∧ ready.cfg.legal = true ∧ ready.dev.wip = false ∧
    ready.okFor 2 :=
  ⟨by decide, by decide, by decide, fun k h => ready_okFor k (by omega)⟩

/-- V44's shape at the edge, k + 1 = POLL_LIMIT + 1. -/
theorem witness_WaitRdyIssuesOneMoreReadThanBusy_late :
    let s := inFlight tinyCfg (.fin 3)
    s.busy = false ∧ s.dev.wip = true ∧ s.dev.kLeft = .fin 3 ∧ s.cfg.pollLimit = .fin 3 ∧ 0 < 3 ∧ 3 < 3 + 1 ∧
      s.okFor (2 * 3) := by
  unfold State.okFor
  decide

/-- V43: k + 1 = POLL_LIMIT. -/
theorem witness_WaitRdyIssuesOneMoreReadThanBusy :
    let s := inFlight tinyCfg (.fin 2)
    s.busy = false ∧ s.dev.wip = true ∧ s.dev.kLeft = .fin 2 ∧ pollAdmits s.cfg (2 + 1) = true ∧
      s.okFor (2 * (2 + 1)) := by
  unfold State.okFor
  decide

/-- V47, with POLL_LIMIT = 3. -/
theorem witness_WaitRdyTimesOut :
    let s := inFlight tinyCfg .inf
    s.busy = false ∧ s.cfg.pollLimit = .fin 3 ∧ 0 < 3 ∧ s.dev.neverReady = true := by decide

/-- The ready device, on a bus whose transmits fail. -/
theorem witness_WaitRdyTimesOut_bus :
    let s := rest tinyCfg (List.replicate 8 .failed) [] []
    s.busy = false ∧ s.cfg.pollLimit = .fin 3 ∧ 0 < 3 ∧ s.pollFailsFor 3 := by
  unfold State.pollFailsFor
  decide

/-- P6. -/
theorem witness_UnboundedPollHangs :
    let s : State := { inFlight refCfg .inf with mwState := .poll, loState := .persist }
    s.polling = true ∧ s.cfg.pollLimit = .inf ∧ s.dev.neverReady = true := by decide

/-- V49a: the ready device, on a bus whose transmits fail. -/
theorem witness_UnboundedPollHangs_bus :
    let s : State := { rest refCfg (List.replicate 8 .failed) [] [] with mwState := .poll }
    s.polling = true ∧ s.cfg.pollLimit = .inf ∧ s.pollFailsFor 4 := by
  unfold State.pollFailsFor
  decide

/-- At the limit with the device ready, inside LO.RUN. -/
theorem witness_PollEndsOnStatusByteOrLimit_limit :
    let s : State := { rest tinyCfg [] [] [] with mwState := .poll, loState := .persist, pollCnt := 3 }
    s.polling = true ∧ s.cfg.pollLimit = .fin s.pollCnt := by decide

/-- The last frame POLL_LIMIT admits, with the device about to end its program operation (V48 for a bus that fails first). -/
theorem witness_PollEndsOnStatusByteOrLimit_ok :
    let s : State := { inFlight tinyCfg (.fin 0) with mwState := .poll, pollCnt := 2 }
    s.polling = true ∧ s.cfg.pollLimit ≠ .fin s.pollCnt ∧ bothOk (s.result 0) (s.result 1) = .ok ∧
      Memory.wf s.dev.mem ∧ Cells.rising s.dev.pend := by decide

/-- The same with the device ready. -/
theorem witness_PollEndsOnStatusByteOrLimit_ready :
    let s : State := { ready with mwState := .poll }
    s.polling = true ∧ s.cfg.pollLimit ≠ .fin s.pollCnt ∧ bothOk (s.result 0) (s.result 1) = .ok ∧
      s.dev.wip = false := by decide

/-- POLL_LIMIT = INF, WIP set once more, the first status frame failing: the third frame is the second good one. -/
theorem witness_LoRunEndsIffEveryPollEnds_poll :
    let s : State :=
      { inFlight refCfg (.fin 1) with
        mwState := .poll, script := { results := [.failed, .ok] ++ oks 4, samples := [], cycles := [] } }
    s.polling = true ∧ s.dev.wip = true ∧ s.dev.kLeft = .fin 1 ∧ pollAdmits s.cfg (s.pollCnt + 3) = true ∧
      s.goodFrames 2 = 1 ∧ s.goodFrames 3 = 2 := by decide

/-- A ready device: the first good frame, which is the last POLL_LIMIT = 3 admits. -/
theorem witness_LoRunEndsIffEveryPollEnds_ready :
    let s : State := { rest tinyCfg (oks 2) [] [] with mwState := .poll, pollCnt := 2 }
    s.polling = true ∧ s.dev.wip = false ∧ pollAdmits s.cfg (s.pollCnt + 1) = true ∧
      s.goodFrames 0 = 0 ∧ s.goodFrames 1 = 1 := by decide

/-- A read to the device's last byte, over a page boundary, while a program operation is in flight. -/
theorem witness_MrReadWhileProgramInFlight :
    let s := inFlight refCfg (.fin 1)
    s.busy = false ∧ (1 : Nat) ≤ 40 ∧ (8152#16).toNat + 40 ≤ s.cfg.capacity ∧ s.dev.wip = true ∧ Memory.wf s.dev.mem ∧
      s.okFor 2 := by
  unfold State.okFor
  decide

/-- The last frame POLL_LIMIT = 3 admits. -/
theorem witness_FailedStatusFrameObservesNothing :
    let s : State := { rest tinyCfg [.ok, .failed] [] [] with mwState := .poll, pollCnt := 2 }
    s.polling = true ∧ s.cfg.pollLimit ≠ .fin s.pollCnt ∧ bothOk (s.result 0) (s.result 1) = .failed := by decide

/-- V39, V35, V34. -/
theorem witness_MrReadChecksBeforeTheBus : ready.busy = false ∧
    ((0 : Nat) = 0 ∨ ready.cfg.capacity < (0#16).toNat + 0) ∧
    ((2 : Nat) = 0 ∨ ready.cfg.capacity < (0x1FFF#16).toNat + 2) ∧
    ¬((2 : Nat) = 0 ∨ ready.cfg.capacity < (0x1FFE#16).toNat + 2) := by decide

/-- V34, V37. -/
theorem witness_MrReadReturnsMemory : ready.busy = false ∧ (1 : Nat) ≤ 2 ∧ (0x1FFE#16).toNat + 2 ≤ ready.cfg.capacity ∧
    (0#16).toNat + 8192 ≤ ready.cfg.capacity ∧ ready.dev.wip = false ∧ ready.okFor 2 :=
  ⟨by decide, by decide, by decide, by decide, by decide, fun k h => ready_okFor k (by omega)⟩

/-- V92. -/
theorem witness_MrReadFailureSkipsNothing : faulty.busy = false ∧ (1 : Nat) ≤ 2 ∧
    (0#16).toNat + 2 ≤ faulty.cfg.capacity ∧ bothOk (faulty.result 0) (faulty.result 1) = .failed := by decide

theorem witness_WriteThenReadRoundTrip : logger.busy = false ∧ Inv logger ∧ (1 : Nat) ≤ 2 ∧
    (2#16).toNat + 2 ≤ logger.cfg.capacity ∧ (2#16).toNat % logger.cfg.pageSize + 2 ≤ logger.cfg.pageSize ∧
    [0xDE#8, 0xAD#8].length = 2 ∧ logger.dev.wip = false ∧ logger.cycle 0 = .fin 1 ∧
    pollAdmits logger.cfg (1 + 1) = true ∧ logger.okFor (2 * 1 + 6) := by
  refine ⟨by decide, inv_logger, by decide, by decide, by decide, by decide, by decide, by decide, by decide, ?_⟩
  unfold State.okFor
  decide

theorem witness_LoRunAcceptedOnlyInIdle : (logger.busy = false ∧ logger.loState = .idle) ∧
    (let s : State := { logger with loState := .done, requests := [.command 7#3 0#16 0 []] }
     s.busy = false ∧ s.loState = .done ∧ s.resetNext = false ∧
       (nextOf (step s)).map (fun t => t.loState) = some .done) := by decide

/-- One state for each of the four moves. -/
theorem witness_OrchestratorSequence : ∀ l ∈ [LoState.resetting, .configuring, .acquire, .pace],
    let s : State := { logger with loState := l }
    s.scState = .idle ∧ s.mwState = .idle ∧ s.mrState = .idle ∧ s.loState = l ∧ s.result 2 = .ok := by decide

/-- V70 and V71: the last slot, and the one before it, with the write about to begin and with the poll going on. -/
theorem witness_PersistLeadsToPaceOrDone (a : StorageAddr) (m : MwState) (hm : m = .idle ∨ m = .poll) :
    let s : State := { logger with loState := .persist, mwState := m, logAddr := a }
    s.scState = .idle ∧ s.mrState = .idle ∧ (s.mwState = .idle ∨ s.mwState = .poll) ∧ s.loState = .persist ∧
      (0#16).toNat + 2 < logger.cfg.capacity ∧ logger.cfg.capacity ≤ (2#16).toNat + 2 :=
  ⟨rfl, rfl, hm, rfl, by decide, by decide⟩

/-- The first and the last slot with the write about to begin. -/
theorem witness_PersistLeadsToPaceOrDone_begins (a : StorageAddr) (ha : a = 0#16 ∨ a = 2#16) :
    let s : State := { logger with loState := .persist, logAddr := a }
    s.scState = .idle ∧ s.mrState = .idle ∧ s.mwState = .idle ∧ s.loState = .persist ∧ s.cfg.legal = true ∧
      s.logAddr.toNat % 2 = 0 ∧ s.logAddr.toNat + 2 ≤ s.cfg.capacity := by
  refine ⟨rfl, rfl, rfl, rfl, inv_logger.legal, ?_⟩
  rcases ha with rfl | rfl <;> decide

/-- The last slot (V66, V73). -/
theorem witness_SlotWritesPassBothChecks : refCfg.legal = true ∧ (8190#16).toNat % 2 = 0 ∧
    (8190#16).toNat + 2 ≤ refCfg.capacity := by decide

/-- A running orchestrator whose step answers a next state. -/
theorem witness_SlotWritesPassBothChecks_running :
    let s : State := { logger with loState := .pace, logAddr := 0#16 }
    Inv s ∧ s.loState.running = true ∧ (nextOf (step s)).isSome = true :=
  ⟨inv_logger_pace, by decide, by decide⟩

theorem witness_LoRunAlwaysReachesDone : logger.busy = false ∧ Inv logger ∧ logger.loState = .idle ∧
    logger.cfg.pollLimit = .fin 3 := ⟨by decide, inv_logger, by decide, by decide⟩

theorem witness_LoRunLogsEverySample : logger.busy = false ∧ Inv logger ∧ logger.loState = .idle ∧
    logger.dev.wip = false ∧
    (∀ i, i < logger.cfg.capacity / 2 → ∃ k, logger.cycle i = .fin k ∧ pollAdmits logger.cfg (k + 1) = true) ∧
    logger.okFor (logger.runCalls (logger.cfg.capacity / 2)) := by
  refine ⟨by decide, inv_logger, by decide, by decide, fun i hi => ?_, ?_⟩
  · have h2 : i < 2 := hi
    match i, h2 with
    | 0, _ => exact ⟨1, by decide, by decide⟩
    | 1, _ => exact ⟨0, by decide, by decide⟩
  · unfold State.okFor
    decide

/-- Two slots, POLL_LIMIT = 1, and a bus on which the first status frame of each poll fails. -/
def failing : State :=
  rest { tinyCfg with pollLimit := .fin 1 } (oks 7 ++ [.failed, .ok] ++ oks 5 ++ [.failed, .ok])
    [(0x19#8, 0x00#8), (0xE7#8, 0x0F#8)] [.fin 0, .fin 0]

/-- Two slots after SC.CONFIG, up to the pace between them. -/
def failingPaced : State :=
  loPace (afterPersist (pollPass (loPersist (loAcquire (loConfiguring (loResetting (loStart failing)))))))

/-- A complete run of two slots: nine steps after LO.RUN, the polls giving up, BUSY = 1 before each step. -/
theorem witness_CompleteRunTransmits : failing.busy = false ∧ Inv failing ∧ failing.loState = .idle ∧
    ∃ s1 t, exec .loRun failing = .next s1 ∧ core.run 9 s1 = .next t ∧ t.busy = false ∧
      ∀ (m : Nat) (u : State), m < 9 → core.run m s1 = .next u → u.busy = true := by
  refine ⟨by decide, by constructor <;> decide, by decide, loStart failing,
    afterPersist (pollPass (loPersist (loAcquire failingPaced))), rfl, ?_, by decide, ?_⟩
  · rfl
  · intro m u hm hu
    match m, hm with
    | 0, _ => cases hu; decide
    | 1, _ => cases hu; decide
    | 2, _ => cases hu; decide
    | 3, _ => cases hu; decide
    | 4, _ => cases hu; decide
    | 5, _ => cases hu; decide
    | 6, _ => cases hu; decide
    | 7, _ => cases hu; decide
    | 8, _ => cases hu; decide

/-- The same machine, whose run ends; a state of that run polls. -/
theorem witness_LoRunEndsIffEveryPollEnds : failing.busy = false ∧ Inv failing ∧ failing.loState = .idle ∧
    exec .loRun failing = .next (loStart failing) ∧
    (loPersist (loAcquire (loConfiguring (loResetting (loStart failing))))).polling = true :=
  ⟨by decide, by constructor <;> decide, by decide, rfl, by decide⟩

/-- A state that meets the invariant and a step of it that answers a next state, LOG_ADDR moving: for the statements about
every step. -/
theorem witness_steps :
    let s : State := { logger with loState := .pace, logAddr := 0#16 }
    Inv s ∧ s.resetNext = false ∧ (nextOf (step s)).map (fun t => t.logAddr) = some 2#16 :=
  ⟨inv_logger_pace, by decide, by decide⟩

/-- Another way LOG_ADDR moves: LO_CONFIGURING. -/
theorem witness_LogAddrAdvancesByTwo_configuring :
    let s : State := { logger with loState := .configuring, logAddr := 2#16 }
    Inv s ∧ (nextOf (step s)).map (fun t => t.logAddr) = some 0#16 :=
  ⟨inv_logger_configuring, by decide⟩

/-- The third way: the hardware reset. -/
theorem witness_LogAddrAdvancesByTwo_reset :
    let s : State := { logger with logAddr := 2#16, requests := [.hardReset] }
    Inv s ∧ s.resetNext = true ∧ (nextOf (step s)).map (fun t => t.logAddr) = some 0#16 :=
  ⟨by constructor <;> decide, by decide, by decide⟩

/-- A malformed command is refused. -/
theorem witness_StepNeverFaults :
    let s : State := { logger with requests := [.command 4#3 0#16 1 []] }
    Inv s ∧ s.requests.head? = some (.command 4#3 0#16 1 []) ∧
      decode s.cfg (.command 4#3 0#16 1 []) = .rejected .dataLength ∧
      match step s with
      | .next _ => False
      | .fault _ => False
      | .refused r => r = .malformedCommand :=
  ⟨by constructor <;> decide, by decide, by decide, rfl⟩

/-- For the last statement about exec: an instruction of each bus that answers a next state. -/
theorem witness_EachBusHasOneOwner : (nextOf (exec .senPointer ready)).isSome = true ∧
    (nextOf (exec .devWren ready)).isSome = true := by decide

end Sys2Proof.Tests
end

section
/-! SUPPORT. What a step can be, said once: which meaning a request has, and the four ways `step` answers a next state. -/

namespace Sys2Proof.Machine

/-- What an instruction does to the state once it is issued with BUSY = 0 (10_state R34). -/
def effect (i : Instr) : State → State :=
  match i with
  | .scReset => scReset
  | .scConfig => scConfig
  | .scRead => scRead
  | .mwWren => mwWren .idle
  | .mwPageWrite addr len data => pageWrite addr len data
  | .mwWaitRdy => waitRdy
  | .mrRead addr len => memoryRead addr len
  | .loRun => loStart
  | .devRead addr n => foreignFrame (.read addr n)
  | .devWrite addr data => foreignFrame (.write addr data)
  | .devWrdi => foreignFrame .wrdi
  | .devWren => foreignFrame .wren
  | .devRdsr => foreignFrame .rdsr
  | .devWrsr operand => foreignFrame (.wrsr operand)
  | .senReset => fun s => foreignWrite s.cfg.broadcastAddr8 [cmdSensorReset] s
  | .senConfig value => fun s => foreignWrite s.cfg.sa8 [ptrConfig, value] s
  | .senPointer => fun s => foreignWrite s.cfg.sa8 [ptrTemp] s
  | .senRead => foreignRead

/-- Every instruction is its effect, issued when BUSY = 0. -/
theorem exec_eq_whenIdle (i : Instr) (s : State) : exec i s = whenIdle (effect i) s := by
  cases i <;> rfl

theorem exec_next {i : Instr} {s t : State} (h : exec i s = .next t) : s.busy = false ∧ t = effect i s :=
  whenIdle_next _ s t (exec_eq_whenIdle i s ▸ h)

/-- A request that is no instruction and answers a next state is a frame or a transfer the spec does not describe
(20_memory R79, 30_encoding R109), or the hardware reset. -/
theorem rejected_next {r : Request} {s t : State} (h : rejected r s = .next t) :
    (∃ tx n, t = foreignFrame (.unlisted tx n) s) ∨ (∃ a8 bytes, t = strangeWrite a8 bytes s) ∨
      (∃ a8 n, t = strangeRead a8 n s) ∨ t = coreReset s := by
  cases r with
  | command op addr len data => cases h
  | memFrame tx n => exact .inl ⟨tx, n, (whenIdle_next _ s t h).2⟩
  | twiWrite a8 bytes => exact .inr (.inl ⟨a8, bytes, (whenIdle_next _ s t h).2⟩)
  | twiRead a8 n => exact .inr (.inr (.inl ⟨a8, n, (whenIdle_next _ s t h).2⟩))
  | hardReset =>
    cases h
    exact .inr (.inr (.inr rfl))

/-- A request served is an instruction's effect, the hardware reset, or what a request that is no instruction does. -/
theorem serve_next {r : Request} {s t : State} (h : serve r s = .next t) :
    (∃ i, decode s.cfg r = .instr i ∧ t = effect i s) ∨ (decode s.cfg r = .resetEvent ∧ t = coreReset s) ∨
      ∃ why, decode s.cfg r = .rejected why ∧ rejected r s = .next t := by
  unfold serve at h
  split at h
  case h_1 i hd => exact .inl ⟨i, hd, (exec_next h).2⟩
  case h_2 hd =>
    cases h
    exact .inr (.inl ⟨hd, rfl⟩)
  case h_3 why hd => exact .inr (.inr ⟨why, hd, h⟩)

/-- A step with BUSY = 1 is a pass of the poll or a move of the orchestrator. -/
theorem resume_next {s t : State} (h : resume s = .next t) :
    (s.polling = true ∧ t = afterPersist (pollPass s)) ∨
      (s.scState = .idle ∧ s.mwState = .idle ∧ s.mrState = .idle ∧ t = loStep s) := by
  unfold resume at h
  split at h
  case isTrue hrest =>
    obtain ⟨hsc, hmr⟩ := hrest
    cases hmw : s.mwState with
    | idle =>
      rw [hmw] at h
      cases h
      exact .inr ⟨hsc, rfl, hmr, rfl⟩
    | poll =>
      rw [hmw] at h
      cases h
      exact .inl ⟨by simp [State.polling, hsc, hmr, hmw], rfl⟩
    | wren =>
      rw [hmw] at h
      cases h
    | program =>
      rw [hmw] at h
      cases h
  case isFalse => cases h

/-- What a step that answers a next state does: a pass of the poll, a move of the orchestrator, waiting, or serving the
oldest request. -/
theorem step_next {s t : State} (h : step s = .next t) :
    (s.polling = true ∧ t = afterPersist (pollPass s)) ∨
      (s.busy = true ∧ s.scState = .idle ∧ s.mwState = .idle ∧ s.mrState = .idle ∧ t = loStep s) ∨
      (s.busy = false ∧ s.requests = [] ∧ t = s) ∨
      ∃ r rest, s.busy = false ∧ s.requests = r :: rest ∧ serve r { s with requests := rest } = .next t := by
  unfold step at h
  split at h
  case isTrue hb =>
    rcases resume_next h with hpoll | ⟨hsc, hmw, hmr, rfl⟩
    · exact .inl hpoll
    · exact .inr (.inl ⟨hb, hsc, hmw, hmr, rfl⟩)
  case isFalse hb =>
    have hidle : s.busy = false := by simpa using hb
    unfold takeRequest at h
    split at h
    case h_1 hq =>
      cases h
      exact .inr (.inr (.inl ⟨hidle, hq, rfl⟩))
    case h_2 r rest hq => exact .inr (.inr (.inr ⟨r, rest, hidle, hq, h⟩))

end Sys2Proof.Machine
end

section
/-! SUPPORT. Parameters, script and trace along a step (00_scope R6, R18; 10_state R40). -/

namespace Sys2Proof.Machine

/-- t comes after s in a run: the parameters and the environment's script are those of s, and the trace of s is the
beginning of its trace. -/
structure Continues (s t : State) : Prop where
  cfg : t.cfg = s.cfg
  script : t.script = s.script
  trace : s.trace <+: t.trace

theorem Continues.refl (s : State) : Continues s s := ⟨rfl, rfl, List.prefix_rfl⟩

theorem Continues.trans {s t u : State} (hst : Continues s t) (htu : Continues t u) : Continues s u :=
  ⟨htu.cfg.trans hst.cfg, htu.script.trans hst.script, hst.trace.trans htu.trace⟩

@[simp] theorem takeSample_trace (r : BusResult) (b : Byte × Byte) (s : State) :
    (takeSample r b s).trace = s.trace ++ failureReport r .scReadRx := by
  cases r <;> simp [takeSample, failureReport]

/-! ## The operations -/

theorem raise_continues (c : Cause) (x : Site) (s : State) : Continues s (raise c x s) :=
  ⟨raise_cfg c x s, raise_script c x s, by simp⟩

theorem coreReset_continues (s : State) : Continues s (coreReset s) := ⟨rfl, rfl, List.prefix_rfl⟩

theorem foreignWrite_continues (a : Byte) (b : List Byte) (s : State) : Continues s (foreignWrite a b s) :=
  ⟨foreignWrite_cfg a b s, foreignWrite_script a b s, by simp⟩

theorem foreignRead_continues (s : State) : Continues s (foreignRead s) :=
  ⟨foreignRead_cfg s, foreignRead_script s, by simp⟩

theorem strangeWrite_continues (a : Byte) (b : List Byte) (s : State) : Continues s (strangeWrite a b s) :=
  ⟨strangeWrite_cfg a b s, strangeWrite_script a b s, by simp⟩

theorem strangeRead_continues (a : Byte) (n : Nat) (s : State) : Continues s (strangeRead a n s) :=
  ⟨strangeRead_cfg a n s, strangeRead_script a n s, by simp⟩

theorem foreignFrame_continues (f : Frame) (s : State) : Continues s (foreignFrame f s) :=
  ⟨foreignFrame_cfg f s, foreignFrame_script f s, by simp [foreignFrame_trace]⟩

theorem scReset_continues (s : State) : Continues s (scReset s) :=
  ⟨scReset_cfg s, scReset_script s, by simp [scReset]⟩

theorem scConfig_continues (s : State) : Continues s (scConfig s) :=
  ⟨scConfig_cfg s, scConfig_script s, by simp [scConfig]⟩

theorem scRead_continues (s : State) : Continues s (scRead s) :=
  ⟨scRead_cfg s, scRead_script s, by simp [scRead]⟩

theorem frameOut_continues (tx : List Byte) (x : Site) (s : State) : Continues s (frameOut tx x s) :=
  ⟨frameOut_cfg tx x s, frameOut_script tx x s, by simp⟩

theorem mwWren_continues (m : MwState) (s : State) : Continues s (mwWren m s) :=
  ⟨mwWren_cfg m s, mwWren_script m s, by simp [mwWren]⟩

theorem pollPass_continues (s : State) : Continues s (pollPass s) :=
  have ⟨es, htrace, _⟩ := pollPass_trace s
  ⟨pollPass_cfg s, pollPass_script s, htrace ▸ List.prefix_append _ es⟩

/-- The poll starts in a state that differs from s in the write engine's registers only. -/
theorem waitRdy_continues (s : State) : Continues s (waitRdy s) :=
  ⟨waitRdy_cfg s, waitRdy_script s, (pollPass_continues { s with mwState := .poll, pollCnt := 0 }).trace⟩

/-- MW.PAGEWRITE is a refusal, or the write-enable frame, the program frame and the poll one after the other (41 R141). -/
theorem pageWrite_continues (a : StorageAddr) (n : Nat) (d : List Byte) (s : State) : Continues s (pageWrite a n d s) := by
  unfold pageWrite
  split_ifs
  · exact raise_continues _ _ s
  · exact raise_continues _ _ s
  · exact ((mwWren_continues _ s).trans (frameOut_continues _ _ _)).trans (waitRdy_continues _)

theorem memoryRead_continues (a : StorageAddr) (n : Nat) (s : State) : Continues s (memoryRead a n s) := by
  refine ⟨memoryRead_cfg a n s, memoryRead_script a n s, ?_⟩
  unfold memoryRead
  split <;> simp

theorem loStart_continues (s : State) : Continues s (loStart s) := by
  unfold loStart
  split
  · exact ⟨rfl, rfl, List.prefix_append _ _⟩
  all_goals exact raise_continues _ _ s

theorem effect_continues (i : Instr) (s : State) : Continues s (effect i s) := by
  cases i with
  | scReset => exact scReset_continues s
  | scConfig => exact scConfig_continues s
  | scRead => exact scRead_continues s
  | mwWren => exact mwWren_continues _ s
  | mwPageWrite addr len data => exact pageWrite_continues addr len data s
  | mwWaitRdy => exact waitRdy_continues s
  | mrRead addr len => exact memoryRead_continues addr len s
  | loRun => exact loStart_continues s
  | devRead | devWrite | devWrdi | devWren | devRdsr | devWrsr => exact foreignFrame_continues _ s
  | senReset | senConfig | senPointer => exact foreignWrite_continues _ _ s
  | senRead => exact foreignRead_continues s

/-! ## The moves of a step -/

theorem afterPersist_continues (s : State) : Continues s (afterPersist s) := by
  refine ⟨afterPersist_cfg s, afterPersist_script s, ?_⟩
  unfold afterPersist
  split_ifs <;> simp

/-- A move of the orchestrator is an operation of another engine, or a delay, and then its own registers (43 R171). -/
theorem loStep_continues (s : State) : Continues s (loStep s) := by
  unfold loStep
  split
  case h_1 | h_7 => exact .refl s
  case h_2 => exact (scReset_continues s).trans ⟨rfl, rfl, List.prefix_rfl⟩
  case h_3 => exact (scConfig_continues s).trans ⟨rfl, rfl, List.prefix_rfl⟩
  case h_4 => exact (scRead_continues s).trans ⟨rfl, rfl, List.prefix_rfl⟩
  case h_5 => exact (pageWrite_continues _ _ _ s).trans (afterPersist_continues _)
  case h_6 => exact ⟨rfl, rfl, List.prefix_append _ _⟩

theorem serve_continues {r : Request} {s t : State} (h : serve r s = .next t) : Continues s t := by
  rcases serve_next h with ⟨i, -, rfl⟩ | ⟨-, rfl⟩ | ⟨-, -, hr⟩
  · exact effect_continues i s
  · exact coreReset_continues s
  · rcases rejected_next hr with ⟨tx, n, rfl⟩ | ⟨a8, bytes, rfl⟩ | ⟨a8, n, rfl⟩ | rfl
    · exact foreignFrame_continues _ s
    · exact strangeWrite_continues a8 bytes s
    · exact strangeRead_continues a8 n s
    · exact coreReset_continues s

theorem step_continues {s t : State} (h : step s = .next t) : Continues s t := by
  rcases step_next h with ⟨-, rfl⟩ | ⟨-, -, -, -, rfl⟩ | ⟨-, -, rfl⟩ | ⟨r, rest, -, -, hserve⟩
  · exact (pollPass_continues s).trans (afterPersist_continues _)
  · exact loStep_continues s
  · exact .refl t
  · have htaken : Continues s { s with requests := rest } := ⟨rfl, rfl, List.prefix_rfl⟩
    exact htaken.trans (serve_continues hserve)

/-- Settles O54: every operation keeps parameters and script and appends to the trace, and a step is one of them. -/
theorem parametersFixedTraceGrows : Obligations.ParametersFixedTraceGrows := by
  intro s t h
  obtain ⟨hcfg, hscript, es, htrace⟩ := step_continues h
  exact ⟨hcfg, hscript, es, htrace.symm⟩

end Sys2Proof.Machine
end

section
/-! SUPPORT. A request other than the hardware reset is one function of the state, issued when BUSY = 0. -/

namespace Sys2Proof.Machine

/-- What a request other than the hardware reset can do: an instruction's effect, or the effect of a frame or transfer the
spec does not describe (20_memory R79, 30_encoding R109). -/
inductive Ordinary : (State → State) → Prop
  | instr (i : Instr) : Ordinary (effect i)
  | unlistedFrame (tx : List Byte) (n : Nat) : Ordinary (foreignFrame (.unlisted tx n))
  | unlistedWrite (a8 : Byte) (bytes : List Byte) : Ordinary (strangeWrite a8 bytes)
  | unlistedRead (a8 : Byte) (n : Nat) : Ordinary (strangeRead a8 n)

/-- Only the hardware reset event is decoded as one. -/
theorem decode_eq_resetEvent {p : Params} {r : Request} (h : decode p r = .resetEvent) : r = .hardReset := by
  cases r with
  | command op addr len data =>
    simp only [decode, decodeCommand] at h
    split at h
    case h_5 => split at h <;> cases h
    all_goals cases h
  | memFrame tx n =>
    simp only [decode] at h
    cases hf : Frame.parse tx n <;> simp [hf, Frame.decoded] at h
  | twiWrite a8 bytes =>
    simp only [decode] at h
    cases hf : Transfer.parse p a8 bytes <;> simp [hf, Transfer.decoded] at h
  | twiRead a8 n =>
    simp only [decode] at h
    split at h <;> cases h
  | hardReset => rfl

/-- A rejected request that answers a next state, and is not the hardware reset, has an ordinary effect. -/
theorem rejected_ordinary {r : Request} {s t : State} (hr : r ≠ .hardReset) (h : rejected r s = .next t) :
    ∃ f, Ordinary f ∧ rejected r = whenIdle f := by
  cases r with
  | command op addr len data => cases h
  | memFrame tx n => exact ⟨_, .unlistedFrame tx n, rfl⟩
  | twiWrite a8 bytes => exact ⟨_, .unlistedWrite a8 bytes, rfl⟩
  | twiRead a8 n => exact ⟨_, .unlistedRead a8 n, rfl⟩
  | hardReset => exact absurd rfl hr

/-- A request other than the hardware reset that answers a next state is one ordinary effect, in every state with the same
parameters. -/
theorem serve_ordinary {r : Request} {s t : State} (hr : r ≠ .hardReset) (h : serve r s = .next t) :
    ∃ f, Ordinary f ∧ s.busy = false ∧ t = f s ∧ ∀ u : State, u.cfg = s.cfg → serve r u = whenIdle f u := by
  have issued {f} (hf : Ordinary f) (hu : ∀ u : State, u.cfg = s.cfg → serve r u = whenIdle f u) :
      ∃ f, Ordinary f ∧ s.busy = false ∧ t = f s ∧ ∀ u : State, u.cfg = s.cfg → serve r u = whenIdle f u :=
    have ⟨hidle, ht⟩ := whenIdle_next f s t (hu s rfl ▸ h)
    ⟨f, hf, hidle, ht, hu⟩
  rcases serve_next h with ⟨i, hd, -⟩ | ⟨hd, -⟩ | ⟨why, hd, hrej⟩
  · exact issued (.instr i) fun u hu => by simp only [serve, hu, hd, exec_eq_whenIdle]
  · exact absurd (decode_eq_resetEvent hd) hr
  · obtain ⟨f, hf, heq⟩ := rejected_ordinary hr hrej
    exact issued hf fun u hu => by simp only [serve, hu, hd, heq]

/-- With BUSY = 0 the oldest request is served. -/
theorem step_serves {s : State} {r : Request} {rest : List Request} (hidle : s.busy = false)
    (hq : s.requests = r :: rest) : step s = serve r { s with requests := rest } := by
  simp [step, hidle, takeRequest, hq]

/-- With BUSY = 1 and the three engines at rest a step is a move of the orchestrator. -/
theorem step_orchestrates {s : State} (hbusy : s.busy = true) (hsc : s.scState = .idle) (hmw : s.mwState = .idle)
    (hmr : s.mrState = .idle) : step s = .next (loStep s) := by
  simp [step, hbusy, resume, hsc, hmw, hmr]

/-- Settles O11: with BUSY = 0 the step looks at the requests, and there is none (10_state R42). -/
theorem idleCoreWaits : Obligations.IdleCoreWaits := by
  intro s hidle hq
  simp [step, hidle, takeRequest, hq]

/-- Settles O12: BUSY is the disjunction of R34, and every instruction is its effect issued when BUSY = 0. -/
theorem noOperationWhileBusy : Obligations.NoOperationWhileBusy := by
  intro s
  have hrunning : s.loState.running = true ↔ s.loState ≠ .idle ∧ s.loState ≠ .done := by
    cases s.loState <;> simp [LoState.running]
  refine ⟨by simp [State.busy, hrunning, or_assoc], fun hbusy i => ?_⟩
  rw [exec_eq_whenIdle, whenIdle_busy _ s hbusy]

end Sys2Proof.Machine
end

section
/-! SUPPORT. ERR is written and never read (10_state R33): what CORE does commutes with setting bits of ERR. -/

namespace Sys2Proof.Machine

/-- s with the bits e of ERR set too. -/
def State.addErr (e : BitVec 5) (s : State) : State := { s with err := s.err ||| e }

/-- f reads no bit of ERR and clears none: with more bits set it does the same and keeps them. -/
def ErrBlind (f : State → State) : Prop := ∀ (e : BitVec 5) (s : State), f (s.addErr e) = (f s).addErr e

theorem ErrBlind.then {f g : State → State} (hf : ErrBlind f) (hg : ErrBlind g) : ErrBlind (fun s => g (f s)) :=
  fun e s => (congrArg g (hf e s)).trans (hg e (f s))

/-! ## Shared operations -/

theorem log_blind (v : Event) : ErrBlind (log v) := fun _ _ => rfl

theorem callBus_blind (v : Event) : ErrBlind (callBus v) := fun _ _ => rfl

theorem memSelect_blind : ErrBlind memSelect := fun _ _ => rfl

theorem memDeselect_blind : ErrBlind memDeselect := fun _ _ => rfl

theorem delay_blind (ms : Nat) : ErrBlind (delay ms) := fun _ _ => rfl

theorem setDone_blind (b : Bool) : ErrBlind (setDone b) := fun _ _ => rfl

/-- Setting MW_STATE looks at nothing. -/
theorem setMwState_blind (m : MwState) : ErrBlind (fun s => { s with mwState := m }) := fun _ _ => rfl

/-- Setting LO_STATE looks at nothing. -/
theorem setLoState_blind (l : LoState) : ErrBlind (fun s => { s with loState := l }) := fun _ _ => rfl

theorem raise_blind (c : Cause) (x : Site) : ErrBlind (raise c x) := by
  intro e s
  have herr : s.err ||| e ||| c.bit = s.err ||| c.bit ||| e := by
    rw [BitVec.or_assoc, BitVec.or_comm e, ← BitVec.or_assoc]
  simp [raise, report, log, State.addErr, herr]

theorem noteFailure_blind (r : BusResult) (x : Site) : ErrBlind (noteFailure r x) := by
  cases r
  case ok => exact fun _ _ => rfl
  case failed => exact raise_blind _ x

theorem reportResult_blind (r : BusResult) (x : Site) : ErrBlind (reportResult r x) := by
  cases r
  case ok => exact fun _ _ => rfl
  case failed => exact raise_blind _ x

theorem deviceHears_blind (r : BusResult) (f : Frame) : ErrBlind (deviceHears r f) := fun _ _ => by cases r <;> rfl

theorem sensorHears_blind (r : BusResult) (f : Transfer) : ErrBlind (sensorHears r f) := fun _ _ => by cases r <;> rfl

theorem sensorRead_blind (r : BusResult) : ErrBlind (sensorRead r) := fun _ _ => by cases r <;> rfl

theorem takeSample_blind (r : BusResult) (b : Byte × Byte) : ErrBlind (takeSample r b) := by
  cases r
  case ok => exact fun _ _ => rfl
  case failed =>
    have draw : ErrBlind (fun s => { s with
      sampleHi := Config.freeByte s.draws 0, sampleLo := Config.freeByte s.draws 1, draws := s.draws + 1 }) :=
      fun _ _ => rfl
    exact (raise_blind _ _).then draw

theorem noteDegraded_blind (r1 r3 r4 : BusResult) : ErrBlind (noteDegraded r1 r3 r4) := by
  intro e s
  unfold noteDegraded
  split
  · rfl
  · exact raise_blind _ _ e s

theorem takeStatus_blind (r : BusResult) (b : List Byte) : ErrBlind (takeStatus r b) := by
  intro e s
  unfold takeStatus
  split <;> rfl

theorem takeData_blind (r : BusResult) (b : List Byte) (n : Nat) : ErrBlind (takeData r b n) := fun _ _ => by
  cases r <;> rfl

/-! ## Transfers and frames -/

theorem twiWrite_blind (r : BusResult) (a : Byte) (b : List Byte) : ErrBlind (twiWrite r a b) := fun e s =>
  (callBus_blind _).then (sensorHears_blind r _) e s

theorem twiRead_blind (r : BusResult) (a : Byte) : ErrBlind (twiRead r a) := fun e s =>
  (callBus_blind _).then (sensorRead_blind r) e s

theorem foreignWrite_blind (a : Byte) (b : List Byte) : ErrBlind (foreignWrite a b) := fun e s =>
  (log_blind _).then (sensorHears_blind .ok _) e s

theorem foreignRead_blind : ErrBlind foreignRead := fun e s => (log_blind _).then (sensorRead_blind .ok) e s

theorem strangeWrite_blind (a : Byte) (b : List Byte) : ErrBlind (strangeWrite a b) := fun e s =>
  (log_blind _).then (sensorHears_blind .ok _) e s

theorem strangeRead_blind (a : Byte) (n : Nat) : ErrBlind (strangeRead a n) := fun e s =>
  (log_blind _).then (sensorHears_blind .ok _) e { s with draws := s.draws + 1 }

theorem frameOut_blind (tx : List Byte) (x : Site) : ErrBlind (frameOut tx x) := fun e s =>
  (memSelect_blind.then (callBus_blind _)).then ((noteFailure_blind _ x).then
    ((deviceHears_blind _ _).then memDeselect_blind)) e s

theorem frameIn_blind (tx : List Byte) (n : Nat) (x y : Site) : ErrBlind (frameIn tx n x y) := fun e s =>
  (memSelect_blind.then (callBus_blind _)).then ((noteFailure_blind _ x).then ((callBus_blind _).then
    ((noteFailure_blind _ y).then ((deviceHears_blind _ _).then memDeselect_blind)))) e s

theorem foreignFrame_blind (f : Frame) : ErrBlind (foreignFrame f) := by
  intro e s
  unfold foreignFrame
  split
  · exact ((memSelect_blind.then (log_blind _)).then ((deviceHears_blind .ok f).then memDeselect_blind)) e s
  · exact ((memSelect_blind.then (log_blind _)).then ((log_blind _).then
      ((deviceHears_blind .ok f).then memDeselect_blind))) e s

/-! ## The operations -/

theorem scReset_blind : ErrBlind scReset := fun e s => (twiWrite_blind _ _ _).then (reportResult_blind _ _) e s

theorem scConfig_blind : ErrBlind scConfig := fun e s => (twiWrite_blind _ _ _).then (reportResult_blind _ _) e s

/-- The steps of SC.READ one after the other (40 R122). -/
theorem scRead_blind : ErrBlind scRead := by
  intro e s
  have trigger := (twiWrite_blind (s.result 0) s.cfg.sa8 [ptrConfig, s.cfg.cfgOneshot]).then
    (noteFailure_blind (s.result 0) .scReadTriggerTx)
  have convert : ErrBlind (fun u => delay u.cfg.convDelayMs { u with scState := .converting }) := fun _ _ => rfl
  have point : ErrBlind (fun u => noteFailure (s.result 1) .scReadPointerTx
      (twiWrite (s.result 1) u.cfg.sa8 [ptrTemp] u)) :=
    fun e u => (twiWrite_blind (s.result 1) u.cfg.sa8 [ptrTemp]).then (noteFailure_blind (s.result 1) _) e u
  have receive : ErrBlind (fun u => takeSample (s.result 2) (s.sample 0) (twiRead (s.result 2) u.cfg.sa8 u)) :=
    fun e u => (twiRead_blind (s.result 2) u.cfg.sa8).then (takeSample_blind (s.result 2) (s.sample 0)) e u
  have decoded : ErrBlind (fun u => { u with scState := .decoded, raw12 := decodeSample u.sampleHi u.sampleLo }) :=
    fun _ _ => rfl
  have note := noteDegraded_blind (s.result 0) (s.result 1) (s.result 2)
  have rest : ErrBlind (fun u => { u with scState := .idle }) := fun _ _ => rfl
  exact (trigger.then convert).then ((point.then receive).then (decoded.then (note.then rest))) e s

theorem mwWren_blind (m : MwState) : ErrBlind (mwWren m) := fun e s =>
  (setMwState_blind .wren).then ((frameOut_blind _ _).then (setMwState_blind m)) e s

theorem pollPass_blind : ErrBlind pollPass := by
  intro e s
  have hx : pollExhausted (s.addErr e) = pollExhausted s := rfl
  unfold pollPass
  rw [hx]
  split
  · exact (raise_blind _ _).then (setMwState_blind .idle) e s
  · exact (frameIn_blind _ _ _ _).then (takeStatus_blind _ _) e s

theorem waitRdy_blind : ErrBlind waitRdy := fun e s => pollPass_blind e { s with mwState := .poll, pollCnt := 0 }

theorem pageWrite_blind (a : StorageAddr) (n : Nat) (d : List Byte) : ErrBlind (pageWrite a n d) := by
  intro e s
  have hcfg : (s.addErr e).cfg = s.cfg := rfl
  unfold pageWrite
  rw [hcfg]
  split_ifs
  · exact raise_blind _ _ e s
  · exact raise_blind _ _ e s
  · exact ((mwWren_blind .program).then (frameOut_blind _ _)).then waitRdy_blind e s

theorem memoryRead_blind (a : StorageAddr) (n : Nat) : ErrBlind (memoryRead a n) := by
  intro e s
  have hcfg : (s.addErr e).cfg = s.cfg := rfl
  unfold memoryRead
  rw [hcfg]
  split
  · exact raise_blind _ _ e s
  · have rest : ErrBlind (fun s => { s with mrState := .idle }) := fun _ _ => rfl
    exact (frameIn_blind _ _ _ _).then ((takeData_blind _ _ _).then rest) e { s with mrState := .read }

theorem loStart_blind : ErrBlind loStart := by
  intro e s
  have hlo : (s.addErr e).loState = s.loState := rfl
  unfold loStart
  rw [hlo]
  split
  case h_1 => rfl
  all_goals exact raise_blind _ _ e s

theorem afterPersist_blind : ErrBlind afterPersist := by
  intro e s
  have hcfg : (s.addErr e).cfg = s.cfg := rfl
  have hlo : (s.addErr e).loState = s.loState := rfl
  have hmw : (s.addErr e).mwState = s.mwState := rfl
  have haddr : (s.addErr e).logAddr = s.logAddr := rfl
  unfold afterPersist
  rw [hcfg, hlo, hmw, haddr]
  split_ifs
  · exact setLoState_blind .pace e s
  · exact (setDone_blind true).then (setLoState_blind .done) e s
  · rfl

/-- Setting LO_STATE and LOG_ADDR looks at nothing. -/
theorem setLog_blind (l : LoState) (a : StorageAddr) : ErrBlind (fun s => { s with loState := l, logAddr := a }) :=
  fun _ _ => rfl

theorem loStep_blind : ErrBlind loStep := by
  intro e s
  have hlo : (s.addErr e).loState = s.loState := rfl
  unfold loStep
  rw [hlo]
  split
  case h_1 | h_7 => rfl
  case h_2 => exact scReset_blind.then (setLoState_blind .configuring) e s
  case h_3 => exact scConfig_blind.then (setLog_blind .acquire 0#16) e s
  case h_4 => exact scRead_blind.then (setLoState_blind .persist) e s
  case h_5 => exact (pageWrite_blind s.logAddr 2 [s.sampleHi, s.sampleLo]).then afterPersist_blind e s
  case h_6 => exact (delay_blind s.cfg.periodMs).then (setLog_blind .acquire (s.logAddr + 2#16)) e s

theorem effect_blind (i : Instr) : ErrBlind (effect i) := by
  cases i with
  | scReset => exact scReset_blind
  | scConfig => exact scConfig_blind
  | scRead => exact scRead_blind
  | mwWren => exact mwWren_blind .idle
  | mwPageWrite addr len data => exact pageWrite_blind addr len data
  | mwWaitRdy => exact waitRdy_blind
  | mrRead addr len => exact memoryRead_blind addr len
  | loRun => exact loStart_blind
  | devRead | devWrite | devWrdi | devWren | devRdsr | devWrsr => exact foreignFrame_blind _
  | senReset | senConfig | senPointer => exact fun e s => foreignWrite_blind _ _ e s
  | senRead => exact foreignRead_blind

theorem Ordinary.blind {f : State → State} (hf : Ordinary f) : ErrBlind f := by
  cases hf with
  | instr i => exact effect_blind i
  | unlistedFrame tx n => exact foreignFrame_blind _
  | unlistedWrite a8 bytes => exact strangeWrite_blind a8 bytes
  | unlistedRead a8 n => exact strangeRead_blind a8 n

/-! ## The step -/

theorem serve_addErr {r : Request} {s t : State} (e : BitVec 5) (hr : r ≠ .hardReset) (h : serve r s = .next t) :
    serve r (s.addErr e) = .next (t.addErr e) := by
  obtain ⟨f, hf, hidle, rfl, hserve⟩ := serve_ordinary hr h
  rw [hserve (s.addErr e) rfl, whenIdle_idle f (s.addErr e) hidle, hf.blind e s]

theorem State.resetNext_eq_false {s : State} {r : Request} {rest : List Request} (hidle : s.busy = false)
    (hq : s.requests = r :: rest) (h : s.resetNext = false) : r ≠ .hardReset := by
  rintro rfl
  simp [State.resetNext, hidle, hq] at h

theorem step_addErr {s t : State} (e : BitVec 5) (hreset : s.resetNext = false) (h : step s = .next t) :
    step (s.addErr e) = .next (t.addErr e) := by
  rcases step_next h with ⟨hpoll, rfl⟩ | ⟨hbusy, hsc, hmw, hmr, rfl⟩ | ⟨hidle, hq, rfl⟩ | ⟨r, rest, hidle, hq, hserve⟩
  · rw [step_polling (s.addErr e) hpoll, pollPass_blind e s, afterPersist_blind e (pollPass s)]
  · rw [step_orchestrates (s := s.addErr e) hbusy hsc hmw hmr, loStep_blind e s]
  · exact idleCoreWaits (t.addErr e) hidle hq
  · rw [step_serves (s := s.addErr e) hidle hq]
    exact serve_addErr e (State.resetNext_eq_false hidle hq hreset) hserve

/-- Settles O53: every operation a step is made of commutes with setting bits of ERR (10_state R33). -/
theorem errNeverChangesWhatCoreDoes : Obligations.ErrNeverChangesWhatCoreDoes :=
  fun _ _ e hreset h => step_addErr e hreset h

/-- Settles O52: setting the bits of ERR that are set already changes nothing before the step, so by O53 it changes nothing
after it. -/
theorem errBitsAreSticky : Obligations.ErrBitsAreSticky := by
  intro s t h hreset
  have hs : s.addErr s.err = s := by simp [State.addErr]
  have ht := step_addErr s.err hreset h
  rw [hs, h] at ht
  have herr : t.err = t.err ||| s.err := congrArg State.err (Host.Outcome.next.inj ht)
  rw [herr]
  ext i hi
  cases hbit : s.err[i] <;> simp [hbit]

end Sys2Proof.Machine
end

section
/-! SUPPORT. LOG_ADDR along a step (10_state R31; 43_logging_orchestrator R172, R181). -/

namespace Sys2Proof.Machine

@[simp] theorem loStart_logAddr (s : State) : (loStart s).logAddr = s.logAddr := by
  unfold loStart
  split <;> simp

theorem effect_logAddr (i : Instr) (s : State) : (effect i s).logAddr = s.logAddr := by
  cases i <;> simp [effect]

theorem Ordinary.logAddr {f : State → State} (hf : Ordinary f) (s : State) : (f s).logAddr = s.logAddr := by
  cases hf with
  | instr i => exact effect_logAddr i s
  | unlistedFrame tx n => exact foreignFrame_logAddr _ s
  | unlistedWrite a8 bytes => exact strangeWrite_logAddr a8 bytes s
  | unlistedRead a8 n => exact strangeRead_logAddr a8 n s

/-- Only the orchestrator's moves out of LO_CONFIGURING and LO_PACE write LOG_ADDR (43 R171). -/
theorem loStep_logAddr (s : State) :
    (loStep s).logAddr = match s.loState with
      | .configuring => 0#16
      | .pace => s.logAddr + 2#16
      | _ => s.logAddr := by
  unfold loStep
  cases s.loState <;> simp [loResetting, loConfiguring, loAcquire, loPersist, loPace]

/-- A pacing advance inside a legal device does not wrap (43 R181). -/
theorem logAddr_advance {p : Params} {a : StorageAddr} (hp : p.legal = true) (h : moreSlots p a = true) :
    (a + 2#16).toNat = a.toNat + 2 := by
  have hcap := (legal_capacity p hp).2
  simp only [moreSlots, decide_eq_true_eq] at h
  rw [BitVec.toNat_add]
  exact Nat.mod_eq_of_lt (by simpa using by omega)

/-- Settles O56: of the four things a step can be, only a move of the orchestrator and the hardware reset write LOG_ADDR. -/
theorem logAddrAdvancesByTwo : Obligations.LogAddrAdvancesByTwo := by
  intro s t hs h hmoved
  rcases step_next h with ⟨-, rfl⟩ | ⟨-, -, -, -, rfl⟩ | ⟨-, -, rfl⟩ | ⟨r, rest, hidle, hq, hserve⟩
  · simp at hmoved
  · rw [loStep_logAddr] at hmoved ⊢
    cases hl : s.loState <;> simp only [hl, ne_eq, not_true_eq_false] at hmoved
    case configuring => exact .inl ⟨rfl, rfl⟩
    case pace => exact .inr (.inl ⟨rfl, logAddr_advance hs.legal (hs.paceRoom hl)⟩)
  · exact absurd rfl hmoved
  · by_cases hr : r = .hardReset
    · subst hr
      cases hserve
      exact .inr (.inr ⟨by simp [State.resetNext, hidle, hq], rfl⟩)
    · obtain ⟨f, hf, -, rfl, -⟩ := serve_ordinary hr hserve
      exact absurd (hf.logAddr _) hmoved

end Sys2Proof.Machine
end

section
/-! SUPPORT. The invariant along a step (10_state R26, R31, R32; 41_memory_write_engine R146; 43_logging_orchestrator R172,
R174). -/

namespace Sys2Proof.Machine

/-! ## The invariant in parts: the device, and the registers of the orchestrator and the write engine -/

theorem Inv.quiet {s : State} (h : Inv s) : s.devQuiet :=
  ⟨⟨h.memCanonical, h.memRange, h.pendRising, h.pendRange, h.pendIdle⟩, h.deselected⟩

/-- t agrees with s in the parameters and in every register the invariant speaks of but the write engine's. -/
structure KeepsControl (s t : State) : Prop where
  cfg : t.cfg = s.cfg
  scState : t.scState = s.scState
  mrState : t.mrState = s.mrState
  loState : t.loState = s.loState
  logAddr : t.logAddr = s.logAddr
  done : t.done = s.done

/-- Only the device and the write engine moved: the invariant asks for a quiet device, for MW_STATE at rest, as it was, or
polling where a poll may be, and for POLL_CNT within its limit. -/
theorem Inv.keep {s t : State} (h : Inv s) (hk : KeepsControl s t) (hq : t.devQuiet)
    (hmw : t.mwState = s.mwState ∨ t.mwState = .idle ∨
      t.mwState = .poll ∧ (s.loState.running = true → s.loState = .persist))
    (hlimit : pollAdmits s.cfg t.pollCnt = true) : Inv t where
  legal := hk.cfg ▸ h.legal
  memCanonical := hq.1.memCanonical
  memRange := hq.1.memRange
  pendRising := hq.1.pendRising
  pendRange := hq.1.pendRange
  pendIdle := hq.1.pendIdle
  deselected := hq.2
  rest := by
    have hrest := h.rest
    rcases hmw with hm | hm | ⟨hm, -⟩ <;> simp_all [State.enginesRest, hk.scState, hk.mrState]
  pollOwner := by
    rw [hk.loState]
    rcases hmw with hm | hm | ⟨-, howner⟩
    · exact hm ▸ h.pollOwner
    · simp [hm]
    · exact fun _ => howner
  pollBound := by rwa [hk.cfg]
  addrEven := hk.logAddr ▸ h.addrEven
  addrRange := by rw [hk.logAddr, hk.cfg]; exact h.addrRange
  paceRoom := by rw [hk.loState, hk.cfg, hk.logAddr]; exact h.paceRoom
  lastSlot := by rw [hk.loState, hk.cfg, hk.logAddr]; exact h.lastSlot
  doneMeansDone := by rw [hk.loState, hk.done]; exact h.doneMeansDone

/-- As `Inv.keep` where the write engine did not move either. -/
theorem Inv.keep_engine {s t : State} (h : Inv s) (hk : KeepsControl s t) (hq : t.devQuiet)
    (hmw : t.mwState = s.mwState) (hpc : t.pollCnt = s.pollCnt) : Inv t :=
  h.keep hk hq (.inl hmw) (hpc ▸ h.pollBound)

/-- As `Inv.keep_engine` where the device did not move either; the model's simp lemmas show that where they say so. -/
theorem Inv.keep_dev {s t : State} (h : Inv s) (hk : KeepsControl s t := by constructor <;> simp)
    (hdev : t.dev = s.dev := by simp) (hmw : t.mwState = s.mwState := by simp)
    (hpc : t.pollCnt = s.pollCnt := by simp) : Inv t :=
  h.keep_engine hk (by simpa only [State.devQuiet, hdev, hk.cfg] using h.quiet) hmw hpc

/-! ## The operations keep it -/

theorem Inv.raise {s : State} (h : Inv s) (c : Cause) (x : Site) : Inv (raise c x s) :=
  h.keep_dev

theorem Inv.scReset {s : State} (h : Inv s) : Inv (scReset s) :=
  h.keep_dev

theorem Inv.scConfig {s : State} (h : Inv s) : Inv (scConfig s) :=
  h.keep_dev

theorem Inv.foreignWrite {s : State} (h : Inv s) (a : Byte) (b : List Byte) : Inv (foreignWrite a b s) :=
  h.keep_dev

theorem Inv.foreignRead {s : State} (h : Inv s) : Inv (foreignRead s) :=
  h.keep_dev

theorem Inv.strangeWrite {s : State} (h : Inv s) (a : Byte) (b : List Byte) : Inv (strangeWrite a b s) :=
  h.keep_dev

theorem Inv.strangeRead {s : State} (h : Inv s) (a : Byte) (n : Nat) : Inv (strangeRead a n s) :=
  h.keep_dev

theorem Inv.foreignFrame {s : State} (h : Inv s) (f : Frame) : Inv (foreignFrame f s) :=
  h.keep_engine (by constructor <;> simp) (foreignFrame_quiet f s h.quiet.1) (by simp) (by simp)

theorem Inv.scState_idle {s : State} (h : Inv s) : s.scState = .idle := by
  have hrest := h.rest
  simp only [State.enginesRest, Bool.and_eq_true, beq_iff_eq] at hrest
  exact hrest.1.1

theorem Inv.mrState_idle {s : State} (h : Inv s) : s.mrState = .idle := by
  have hrest := h.rest
  simp only [State.enginesRest, Bool.and_eq_true, beq_iff_eq] at hrest
  exact hrest.1.2

/-- SC.READ leaves SC_STATE at rest, where it was. -/
theorem Inv.scRead {s : State} (h : Inv s) : Inv (scRead s) :=
  h.keep_dev ⟨by simp, h.scState_idle.symm, by simp, by simp, by simp, by simp⟩

/-- MR.READ leaves MR_STATE at rest, where it was. -/
theorem Inv.memoryRead {s : State} (h : Inv s) (a : StorageAddr) (n : Nat) : Inv (memoryRead a n s) := by
  have hmr : (Machine.memoryRead a n s).mrState = s.mrState := by
    unfold Machine.memoryRead
    split
    · rfl
    · exact h.mrState_idle.symm
  exact h.keep_engine ⟨by simp, by simp, hmr, by simp, by simp, by simp⟩ (memoryRead_quiet a n s h.quiet) (by simp)
    (by simp)

theorem Inv.mwWren {s : State} (h : Inv s) : Inv (mwWren .idle s) :=
  h.keep (by constructor <;> simp) (mwWren_quiet .idle s h.quiet.1) (.inr (.inl rfl)) (by simpa using h.pollBound)

theorem Inv.pollPass {s : State} (h : Inv s) : Inv (pollPass s) :=
  h.keep (by constructor <;> simp) (pollPass_quiet s h.quiet) ((pollPass_mwState s).imp_right .inl)
    (pollAdmits_pass s h.pollBound)

/-- A wait may begin where the orchestrator is at rest or in LO_PERSIST. -/
theorem Inv.waitRdy {s : State} (h : Inv s) (howner : s.loState.running = true → s.loState = .persist) :
    Inv (waitRdy s) :=
  h.keep (by constructor <;> simp) (waitRdy_quiet s h.quiet)
    (.inr ((waitRdy_mwState s).symm.imp_right fun hm => ⟨hm, howner⟩)) (waitRdy_admits s)

theorem Inv.pageWrite {s : State} (h : Inv s) (howner : s.loState.running = true → s.loState = .persist)
    (a : StorageAddr) (n : Nat) (d : List Byte) : Inv (pageWrite a n d s) := by
  refine h.keep (by constructor <;> simp) (pageWrite_quiet a n d s h.quiet) ?_ (pageWrite_admits a n d s h.pollBound)
  rcases pageWrite_mwState a n d s with hm | hm | hm
  · exact .inr (.inr ⟨hm, howner⟩)
  · exact .inr (.inl hm)
  · exact .inl hm

/-! ## The orchestrator's moves -/

theorem Inv.done_eq_false {s : State} (h : Inv s) (hl : s.loState ≠ .done) : s.done = false := by
  simpa [hl] using h.doneMeansDone

/-- A move out of a state other than LO_DONE, to one other than LO_PACE and LO_DONE, with LOG_ADDR at a slot. -/
theorem Inv.move {s : State} (h : Inv s) (hmw : s.mwState = .idle) (hl : s.loState ≠ .done) (l : LoState)
    (a : StorageAddr) (hpace : l ≠ .pace) (hdone : l ≠ .done) (heven : a.toNat % 2 = 0)
    (hrange : a.toNat + 2 ≤ s.cfg.capacity) : Inv { s with loState := l, logAddr := a } :=
  { h with
    pollOwner := by simp [hmw]
    addrEven := heven
    addrRange := hrange
    paceRoom := fun e => absurd e hpace
    lastSlot := fun e => absurd e hdone
    doneMeansDone := by simp [hdone, h.done_eq_false hl] }

/-- A move that leaves LOG_ADDR. -/
theorem Inv.move_lo {s : State} (h : Inv s) (hmw : s.mwState = .idle) (hl : s.loState ≠ .done) (l : LoState)
    (hpace : l ≠ .pace) (hdone : l ≠ .done) : Inv { s with loState := l } :=
  h.move hmw hl l s.logAddr hpace hdone h.addrEven h.addrRange

/-- Leaving LO_PERSIST: to LO_PACE while slots remain, else to LO_DONE at the last slot (43 R172, R174). -/
theorem Inv.afterPersist {s : State} (h : Inv s) : Inv (afterPersist s) := by
  unfold Machine.afterPersist
  split_ifs with hleft hmore
  · obtain ⟨hl, hmw⟩ := hleft
    exact { h with
      pollOwner := by simp [hmw]
      paceRoom := fun _ => hmore
      lastSlot := nofun
      doneMeansDone := by simpa [hl] using h.doneMeansDone }
  · obtain ⟨hl, hmw⟩ := hleft
    have hlast : s.logAddr.toNat + 2 = s.cfg.capacity := by
      have hrange := h.addrRange
      simp only [moreSlots, decide_eq_true_eq] at hmore
      omega
    exact { h with
      pollOwner := nofun
      paceRoom := nofun
      lastSlot := fun _ => hlast
      doneMeansDone := by simp }
  · exact h

theorem Inv.loStart {s : State} (h : Inv s) (hmw : s.mwState = .idle) : Inv (loStart s) := by
  unfold Machine.loStart
  split
  case h_1 hl =>
    have hdone : s.done = false := h.done_eq_false (by simp [hl])
    have hset : Inv (setDone false s) := h.keep_dev ⟨rfl, rfl, rfl, rfl, rfl, hdone.symm⟩
    exact hset.move_lo hmw (by simp [hl]) .resetting nofun nofun
  all_goals exact h.raise _ _

/-- Every move of the orchestrator between operations keeps the invariant (43 R171). -/
theorem Inv.loStep {s : State} (h : Inv s) (hmw : s.mwState = .idle) : Inv (loStep s) := by
  unfold Machine.loStep
  split
  case h_1 | h_7 => exact h
  case h_2 hl => exact h.scReset.move_lo (by simpa using hmw) (by simp [hl]) .configuring nofun nofun
  case h_3 hl =>
    have hcap := (legal_capacity s.cfg h.legal).1
    exact h.scConfig.move (by simpa using hmw) (by simp [hl]) .acquire 0#16 nofun nofun rfl (by simpa using hcap)
  case h_4 hl => exact h.scRead.move_lo (by simpa using hmw) (by simp [hl]) .persist nofun nofun
  case h_5 hl => exact (h.pageWrite (fun _ => hl) _ _ _).afterPersist
  case h_6 hl =>
    have hmore := h.paceRoom hl
    have hadv := logAddr_advance h.legal hmore
    have heven := h.addrEven
    have hdelay : Inv (delay s.cfg.periodMs s) := h.keep_dev
    have hrange : s.logAddr.toNat + 4 ≤ s.cfg.capacity := by
      have hcap := legal_capacity_even s.cfg h.legal
      simp only [moreSlots, decide_eq_true_eq] at hmore
      omega
    exact hdelay.move hmw (by simp [hl]) .acquire _ nofun nofun (by omega) (by simp only [delay_cfg]; omega)

/-! ## The step keeps it -/

/-- The hardware reset keeps the parameters and the device, and sets the registers to R42's values. -/
theorem Inv.coreReset {s : State} (h : Inv s) : Inv (coreReset s) :=
  { h with
    rest := rfl
    pollOwner := nofun
    pollBound := pollAdmits_zero s.cfg
    addrEven := rfl
    addrRange := by simpa [Machine.coreReset] using (legal_capacity s.cfg h.legal).1
    paceRoom := nofun
    lastSlot := nofun
    doneMeansDone := by simp [Machine.coreReset] }

theorem Inv.effect {s : State} (h : Inv s) (hidle : s.busy = false) (i : Instr) : Inv (effect i s) := by
  obtain ⟨-, hmw, -, hlo⟩ := of_not_busy s hidle
  have howner : s.loState.running = true → s.loState = .persist := by
    rcases hlo with hl | hl <;> simp [hl, LoState.running]
  cases i with
  | scReset => exact h.scReset
  | scConfig => exact h.scConfig
  | scRead => exact h.scRead
  | mwWren => exact h.mwWren
  | mwPageWrite addr len data => exact h.pageWrite howner addr len data
  | mwWaitRdy => exact h.waitRdy howner
  | mrRead addr len => exact h.memoryRead addr len
  | loRun => exact h.loStart hmw
  | devRead | devWrite | devWrdi | devWren | devRdsr | devWrsr => exact h.foreignFrame _
  | senReset | senConfig | senPointer => exact h.foreignWrite _ _
  | senRead => exact h.foreignRead

theorem Inv.ordinary {s : State} (h : Inv s) (hidle : s.busy = false) {f : State → State} (hf : Ordinary f) :
    Inv (f s) := by
  cases hf with
  | instr i => exact h.effect hidle i
  | unlistedFrame tx n => exact h.foreignFrame _
  | unlistedWrite a8 bytes => exact h.strangeWrite a8 bytes
  | unlistedRead a8 n => exact h.strangeRead a8 n

theorem Inv.serve {s t : State} {r : Request} (h : Inv s) (hserve : serve r s = .next t) : Inv t := by
  by_cases hr : r = .hardReset
  · subst hr
    cases hserve
    exact h.coreReset
  · obtain ⟨f, hf, hidle, rfl, -⟩ := serve_ordinary hr hserve
    exact h.ordinary hidle hf

/-- Settles O50: a step is a pass of the poll, a move of the orchestrator, waiting, or a request served, and each keeps the
invariant. -/
theorem stepKeepsInvariant : Obligations.StepKeepsInvariant := by
  intro s t hs h
  rcases step_next h with ⟨-, rfl⟩ | ⟨-, -, hmw, -, rfl⟩ | ⟨-, -, rfl⟩ | ⟨r, rest, -, -, hserve⟩
  · exact hs.pollPass.afterPersist
  · exact hs.loStep hmw
  · exact hs
  · have htaken : Inv { s with requests := rest } := { hs with }
    exact htaken.serve hserve

end Sys2Proof.Machine
end

section
/-! SUPPORT. The state after reset (10_state R42; 70_reset R222) meets the invariant. -/

namespace Sys2Proof.Machine

/-- Two bits at different places are different single bits. -/
theorem oneBit_masks (i : Fin 8) (j : Fin 7) :
    oneBit (1#8 <<< i.val) = true ∧ oneBit (1#8 <<< ((i.val + 1 + j.val) % 8)) = true ∧
      (1#8 <<< i.val) ≠ (1#8 <<< ((i.val + 1 + j.val) % 8)) := by
  revert i j
  decide

/-- The free parameters of the reference configuration are legal, whatever they are (00_scope R7, R8). -/
theorem reference_legal : Config.reference.legal = true := by
  obtain ⟨hsd, hos, hne⟩ := oneBit_masks Config.sdBit Config.osStep
  have hpoll : Config.reference.pollLimit ≠ .fin 0 := by
    simp only [Config.reference]
    split <;> simp
  have hbase : Config.reference.cfgBase &&& (Config.reference.sdMask ||| Config.reference.osMask) = 0#8 := by
    simp only [Config.reference, BitVec.and_assoc]
    rw [BitVec.and_comm (~~~_)]
    simp
  have hcap : Config.reference.capacity = 2 ^ Config.reference.capacity.log2 := by decide
  have hpage : Config.reference.pageSize = 2 ^ Config.reference.pageSize.log2 := by decide
  simp only [Params.legal, Bool.and_eq_true, beq_iff_eq, bne_iff_ne, decide_eq_true_eq]
  exact ⟨⟨⟨⟨⟨⟨⟨⟨⟨hcap, by decide⟩, by decide⟩, hpage⟩, by decide⟩, hsd⟩, hos⟩, hne⟩, hbase⟩, hpoll⟩

/-- Settles O49: the parameters are legal, nothing is listed in MEM or PEND, and the registers are R42's. -/
theorem resetMeetsInvariant : Obligations.ResetMeetsInvariant where
  legal := reference_legal
  memCanonical := ⟨.nil, nofun⟩
  memRange := nofun
  pendRising := .nil
  pendRange := nofun
  pendIdle := fun _ => rfl
  deselected := rfl
  rest := rfl
  pollOwner := nofun
  pollBound := pollAdmits_zero _
  addrEven := rfl
  addrRange := (legal_capacity _ reference_legal).1
  paceRoom := nofun
  lastSlot := nofun
  doneMeansDone := by simp [State.reset]

/-- Settles O48: each value of R42 stands in State.reset as it is written there. -/
theorem resetLeavesTheStatedValues : Obligations.ResetLeavesTheStatedValues :=
  ⟨⟨rfl, rfl, rfl, rfl, rfl⟩, rfl, rfl, rfl, rfl, rfl, rfl, rfl, rfl, rfl, rfl, rfl⟩

end Sys2Proof.Machine
end

section
/-! SUPPORT. An instruction issued when BUSY = 0; the sensor under the transfers of another master (20_memory R63, R80 to
R83). -/

namespace Sys2Proof.Machine

/-- With BUSY = 0 an instruction answers its effect. -/
theorem exec_idle {s : State} (hidle : s.busy = false) (i : Instr) : exec i s = .next (effect i s) := by
  rw [exec_eq_whenIdle, whenIdle_idle _ s hidle]

theorem foreignWrite_frame (a8 : Byte) (bytes : List Byte) (s : State) :
    foreignWrite a8 bytes s = { s with
      sensor := (foreignWrite a8 bytes s).sensor, draws := (foreignWrite a8 bytes s).draws
      trace := s.trace ++ [.tw a8 bytes .ok] } := by
  ext1 <;> simp

theorem foreignRead_frame (s : State) :
    foreignRead s = { s with
      sensor := (foreignRead s).sensor, draws := (foreignRead s).draws, samples := s.samples + 1
      trace := s.trace ++ [.tr s.cfg.sa8 2 .ok [(s.sample 0).1, (s.sample 0).2]] } := by
  ext1 <;> simp

theorem parse_config (p : Params) (v : Byte) : Transfer.parse p p.sa8 [ptrConfig, v] = .config v := by
  simp [Transfer.parse]

theorem parse_pointer (p : Params) : Transfer.parse p p.sa8 [ptrTemp] = .pointer := by
  simp [Transfer.parse, ptrTemp, cmdSensorReset]

theorem foreignWrite_sensor (a8 : Byte) (bytes : List Byte) (s : State) :
    (foreignWrite a8 bytes s).sensor = s.sensor.takes s.cfg s.draws (Transfer.parse s.cfg a8 bytes) := rfl

theorem foreignRead_sensor (s : State) : (foreignRead s).sensor = s.sensor.settle s.cfg s.draws := rfl

/-- Setting both bits starts a conversion (20_memory R81). -/
theorem Sensor.configure_converting (p : Params) (t : Nat) (v : Byte) (n : Sensor) (hsd : v &&& p.sdMask ≠ 0#8)
    (hos : v &&& p.osMask ≠ 0#8) : (n.configure p t v).converting = true := by
  simp [Sensor.configure, hsd, hos]

/-- Settles O19: the three writes and the read leave everything but the sensor, the counters and the trace. -/
theorem sensorTransfersLeaveCoreAlone : Obligations.SensorTransfersLeaveCoreAlone := fun s _ hidle =>
  ⟨⟨_, exec_idle hidle _, foreignWrite_frame _ _ s⟩, ⟨_, exec_idle hidle _, foreignWrite_frame _ _ s⟩,
    ⟨_, exec_idle hidle _, foreignWrite_frame _ _ s⟩, ⟨_, exec_idle hidle _, foreignRead_frame s⟩⟩

/-- Settles O20: the sensor takes each transfer as the one CORE's formats name, and between two transfers its pointer and
configuration stay. -/
theorem sensorTakesConfigurationAndPointer : Obligations.SensorTakesConfigurationAndPointer := by
  intro s v hidle
  have hconfig : (effect (.senConfig v) s).sensor = s.sensor.configure s.cfg s.draws v := by
    simp only [effect, foreignWrite_sensor, parse_config, Sensor.takes]
  have hpointer : (effect .senPointer s).sensor = { s.sensor.settle s.cfg s.draws with pointer := ptrTemp } := by
    simp only [effect, foreignWrite_sensor, parse_pointer, Sensor.takes]
  have hread : (effect .senRead s).sensor = s.sensor.settle s.cfg s.draws := foreignRead_sensor s
  refine ⟨⟨_, exec_idle hidle _, ?_, ?_⟩, ⟨_, exec_idle hidle _, ?_, ?_⟩, ⟨_, exec_idle hidle _, ?_, ?_⟩⟩
  · rw [hconfig]
    rfl
  · rw [hconfig]
    exact Sensor.configure_converting s.cfg s.draws v s.sensor
  · rw [hpointer]
    rfl
  · rw [hpointer]
    rfl
  · rw [hread]
    rfl
  · rw [hread]
    rfl

end Sys2Proof.Machine
end

section
/-! SUPPORT. The memory device under the frames of another master (20_memory R70 to R76, R78). -/

namespace Sys2Proof.Machine

/-! ## The six frames -/

theorem foreignFrame_frame (f : Frame) (s : State) :
    foreignFrame f s = { s with
      dev := (foreignFrame f s).dev, programs := (foreignFrame f s).programs, draws := (foreignFrame f s).draws
      trace := (foreignFrame f s).trace } := by
  ext1 <;> simp

@[simp] theorem foreignFrame_selected (f : Frame) (s : State) : (foreignFrame f s).dev.selected = false := by
  rw [foreignFrame_dev]

/-- A frame whose events are es changes the device, the counters and the trace, by es, and leaves the device deselected. -/
theorem foreignFrame_changes {f : Frame} {s : State} {es : List Event} (htrace : (foreignFrame f s).trace = s.trace ++ es) :
    (foreignFrame f s).dev.selected = false ∧
      foreignFrame f s = { s with
        dev := (foreignFrame f s).dev, programs := (foreignFrame f s).programs, draws := (foreignFrame f s).draws
        trace := s.trace ++ es } :=
  ⟨foreignFrame_selected f s, htrace ▸ foreignFrame_frame f s⟩

theorem foreignFrame_trace_out {f : Frame} (s : State) (hrx : f.rxLen = 0) :
    (foreignFrame f s).trace = s.trace ++ [.sel, .tx f.txBytes .ok, .des] := by
  simp [foreignFrame_trace, hrx]

theorem foreignFrame_trace_in {f : Frame} (s : State) (hrx : f.rxLen ≠ 0) :
    (foreignFrame f s).trace = s.trace ++
      [.sel, .tx f.txBytes .ok, .rx f.rxLen .ok (s.dev.answer s.cfg s.draws f), .des] := by
  simp [foreignFrame_trace, hrx]

@[simp] theorem readMany_length (a n : Nat) (m : List Host.Cell) : (Memory.readMany a n m).length = n := by
  simp [Memory.readMany]

theorem readMany_getElem? {a n k : Nat} (m : List Host.Cell) (hk : k < n) :
    (Memory.readMany a n m)[k]? = some (Memory.read (a + k) m) := by
  simp [Memory.readMany, hk]

@[simp] theorem answer_read_length (p : Params) (t : Nat) (a : StorageAddr) (n : Nat) (d : MemDevice) :
    (d.answer p t (.read a n)).length = n := by
  simp only [MemDevice.answer]
  split <;> simp

/-- A ready device answers a read inside the device with MEM's bytes (20_memory R70). -/
theorem answer_read_ready {p : Params} {a : StorageAddr} {n : Nat} {d : MemDevice} (t : Nat) (hw : d.wip = false)
    (hr : inRange p a n = true) : d.answer p t (.read a n) = Memory.readMany a.toNat n d.mem := by
  simp only [inRange, Bool.and_eq_true, decide_eq_true_eq] at hr
  simp [MemDevice.answer, hw, hr]

theorem complete_read_ready {d : MemDevice} (p : Params) (t : Nat) (k : NatInf) (a : StorageAddr) (n : Nat)
    (hw : d.wip = false) : d.complete p t k (.read a n) = d := by
  simp [MemDevice.complete, hw]

theorem complete_wren_ready {d : MemDevice} (p : Params) (t : Nat) (k : NatInf) (hw : d.wip = false) :
    d.complete p t k .wren = { d with wel := true } := by
  simp [MemDevice.complete, hw]

theorem complete_write_ready {p : Params} {a : StorageAddr} {data : List Byte} {d : MemDevice} (t : Nat) (k : NatInf)
    (hl : d.wel = true) (hw : d.wip = false) (ht : targetsExist p a.toNat data.length = true) :
    d.complete p t k (.write a data) = d.program p k a.toNat data := by
  simp [MemDevice.complete, hl, hw, ht]

/-- Settles O21: every frame has the events of its format and changes the device only. -/
theorem deviceFramesLeaveCoreAlone : Obligations.DeviceFramesLeaveCoreAlone := by
  intro s a n d hidle
  have sends (f : Frame) (hrx : f.rxLen = 0) := foreignFrame_changes (foreignFrame_trace_out s hrx)
  have receives (f : Frame) (hrx : f.rxLen ≠ 0) := foreignFrame_changes (foreignFrame_trace_in s hrx)
  exact ⟨fun hn => ⟨_, answer_read_length s.cfg s.draws a n s.dev, _, exec_idle hidle _,
      receives (.read a n) (Nat.ne_of_gt hn)⟩,
    ⟨_, exec_idle hidle _, sends (.write a d) rfl⟩, ⟨_, exec_idle hidle _, sends .wrdi rfl⟩,
    ⟨_, exec_idle hidle _, sends .wren rfl⟩,
    ⟨statusOf (Config.freeStatus s.draws) s.dev.statusRead.wip, _, exec_idle hidle _, receives .rdsr nofun⟩,
    ⟨_, exec_idle hidle _, sends (.wrsr d) rfl⟩⟩

/-- Settles O22: a ready device answers with MEM's bytes and stays as it is. -/
theorem devReadReturnsMemory : Obligations.DevReadReturnsMemory := by
  intro s a n hidle hw hn hrange
  have hr : inRange s.cfg a n = true := by simp [inRange, hn, hrange]
  refine ⟨_, Memory.readMany a.toNat n s.dev.mem, exec_idle hidle _, ?_, ?_, readMany_length _ _ _,
    fun k hk => readMany_getElem? _ hk⟩
  · simp only [effect, foreignFrame_dev, complete_read_ready _ _ _ _ _ hw]
  · rw [← answer_read_ready s.draws hw hr]
    exact foreignFrame_trace_in (f := .read a n) s (Nat.ne_of_gt hn)

/-- Settles O24: a ready device takes a write-enable frame by setting WEL. -/
theorem devWrenSetsLatch : Obligations.DevWrenSetsLatch := fun s hidle hw =>
  ⟨_, exec_idle hidle _, by simp only [effect, foreignFrame_dev, complete_wren_ready _ _ _ hw]⟩

/-! ## The program frame -/

/-- Where a page lies in the device, so do the targets of every program frame that begins in the device. -/
theorem targetsExist_of_page {p : Params} {a : Nat} (n : Nat) (hl : p.legal = true) (hp : p.pageSize ≤ p.capacity)
    (ha : a < p.capacity) : targetsExist p a n = true := by
  simp [targetsExist, ha, pageTarget_lt p hl hp a _ ha]

/-- Settles O23: the targets of at most a page of bytes exist and differ, so each byte stands where it was placed. -/
theorem devWriteFillsPendingPage : Obligations.DevWriteFillsPendingPage := by
  intro s a d hidle hl hp hwel hw hrise ha hlen base target
  have hdev : (effect (.devWrite a d) s).dev =
      { s.dev.program s.cfg (s.cycle 0) a.toNat d with selected := false } := by
    simp only [effect, foreignFrame_dev,
      complete_write_ready s.draws (s.cycle 0) hwel hw (targetsExist_of_page d.length hl hp ha)]
  refine ⟨_, exec_idle hidle _, ?_, fun k hk => ?_, fun x hx => ?_⟩
  · rw [hdev]
    rfl
  · rw [hdev]
    have hat := placeBytes_at s.cfg a.toNat 0 k d s.dev.pend hrise hk fun j hkj hj => by
      simp only [Nat.zero_add]
      exact (pageTarget_ne s.cfg a.toNat k j (legal_pageSize s.cfg hl) hkj (by omega)).symm
    rwa [Nat.zero_add] at hat
  · rw [hdev]
    exact placeBytes_other s.cfg a.toNat 0 x d s.dev.pend hrise fun j _ hj => hx j (by omega)

/-! ## The status frame -/

theorem statusRead_ready {d : MemDevice} (hw : d.wip = false) : d.statusRead = d := by
  simp [MemDevice.statusRead, hw]

theorem statusRead_stuck {d : MemDevice} (hw : d.wip = true) (hk : d.kLeft = .inf) : d.statusRead = d := by
  simp [MemDevice.statusRead, hw, hk]

theorem statusRead_counts {d : MemDevice} {k : Nat} (hw : d.wip = true) (hk : d.kLeft = .fin (k + 1)) :
    d.statusRead = { d with kLeft := .fin k } := by
  simp [MemDevice.statusRead, hw, hk]

theorem statusRead_commits {d : MemDevice} (hw : d.wip = true) (hk : d.kLeft = .fin 0) : d.statusRead = d.commit := by
  simp [MemDevice.statusRead, hw, hk]

/-- Settles O25: the byte carries WIP after the device's own rule for a status read, and that rule has the four cases. -/
theorem devRdsrReportsAndCommits : Obligations.DevRdsrReportsAndCommits := by
  intro s hidle hwf hrise
  have hdev : (effect .devRdsr s).dev = { s.dev.statusRead with selected := false } := foreignFrame_dev .rdsr s
  refine ⟨_, statusOf (Config.freeStatus s.draws) s.dev.statusRead.wip, exec_idle hidle _,
    foreignFrame_trace_in (f := .rdsr) s nofun, ?_, fun hw => ?_, fun hw hk => ?_,
    fun k hw hk => ?_, fun hw hk => ⟨?_, fun x => ?_⟩⟩
  · rw [hdev, statusOf_bit_zero]
  · rw [hdev, statusRead_ready hw]
  · rw [hdev, statusRead_stuck hw hk]
  · rw [hdev, statusRead_counts hw hk]
  · rw [hdev, statusRead_commits hw hk]
    rfl
  · rw [hdev, statusRead_commits hw hk]
    exact Memory.read_writeCells s.dev.pend s.dev.mem x hrise hwf

/-! ## Frames while WIP = 1 -/

/-- An address of another page than a's is not touched by a frame that addresses a. -/
theorem not_touched_of_other_page {p : Params} {a x : Nat} (ha : a < p.capacity)
    (hx : x / p.pageSize ≠ a / p.pageSize) : x ∉ touched p a := by
  simp [touched, ha, hx]

/-- A frame while WIP = 1 keeps MEM at the addresses it does not touch. -/
theorem disturbed_read {d : MemDevice} {addrs : List Nat} {x : Nat} (p : Params) (t : Nat) (hwf : Memory.wf d.mem)
    (hx : x ∉ addrs) : Memory.read x (d.disturbed p t addrs).mem = Memory.read x d.mem :=
  drawMem_read t x addrs d.mem hwf hx

theorem complete_read_busy {d : MemDevice} (p : Params) (t : Nat) (k : NatInf) (a : StorageAddr) (n : Nat)
    (hw : d.wip = true) : d.complete p t k (.read a n) = d.disturbed p t (touched p a.toNat) := by
  simp [MemDevice.complete, hw]

theorem complete_wren_busy {d : MemDevice} (p : Params) (t : Nat) (k : NatInf) (hw : d.wip = true) :
    d.complete p t k .wren = d.disturbed p t [] := by
  simp [MemDevice.complete, hw]

theorem complete_write_busy {p : Params} {a : StorageAddr} {data : List Byte} {d : MemDevice} (t : Nat) (k : NatInf)
    (hl : d.wel = true) (hw : d.wip = true) (ht : targetsExist p a.toNat data.length = true) :
    d.complete p t k (.write a data) = d.disturbed p t (touched p a.toNat) := by
  simp [MemDevice.complete, hl, hw, ht]

/-- Settles O26: each of the three frames disturbs the device at the addresses it touches, which lie in the addressed page;
a write-enable frame touches none. -/
theorem framesWhileBusyTouchOnlyTheirPage : Obligations.FramesWhileBusyTouchOnlyTheirPage := by
  intro s a n d hidle hl hp hwf hw ha otherPagesKept
  have kept {t : State}
      (ht : t.dev = { s.dev.disturbed s.cfg s.draws (touched s.cfg a.toNat) with selected := false }) :
      otherPagesKept t := by
    refine ⟨by simp [ht, MemDevice.disturbed], fun x hx => ?_⟩
    rw [ht]
    exact disturbed_read s.cfg s.draws hwf (not_touched_of_other_page ha hx)
  refine ⟨⟨_, exec_idle hidle _, kept ?_⟩, fun hwel => ⟨_, exec_idle hidle _, kept ?_⟩, ⟨_, exec_idle hidle _, ?_⟩⟩
  · simp only [effect, foreignFrame_dev, complete_read_busy _ _ _ _ _ hw]
  · simp only [effect, foreignFrame_dev,
      complete_write_busy s.draws (s.cycle 0) hwel hw (targetsExist_of_page d.length hl hp ha)]
  · simp only [effect, foreignFrame_dev, complete_wren_busy _ _ _ hw]
    rfl

end Sys2Proof.Machine
end

section
/-! SUPPORT. A program frame that fails (20_memory R77) and a write followed by a read (20_memory R87). -/

namespace Sys2Proof.Machine

/-! ## A failed program frame -/

/-- A bit of ERR set before an operation is set after it. -/
theorem ErrBlind.keeps_bit {f : State → State} (hf : ErrBlind f) {s : State} {i : Nat} (h : s.err.getLsbD i = true) :
    (f s).err.getLsbD i = true := by
  have hsame : s.addErr s.err = s := by simp [State.addErr]
  have herr : (f s).err = (f s).err ||| s.err := congrArg State.err ((congrArg f hsame).symm.trans (hf s.err s))
  rw [herr, BitVec.getLsbD_or, h, Bool.or_true]

/-- A drawn PEND lists no address that is not admitted. -/
theorem drawPend_get?_none {keep : Nat → Bool} {x : Nat} (t : Nat) (hx : keep x = false) :
    Cells.get? x (drawPend t keep) = none := by
  refine (drawPend_keeps (fun q => Cells.rising q ∧ Cells.get? x q = none) keep _ [] ⟨.nil, rfl⟩ ?_).2
  rintro a b q ha ⟨hq, hnone⟩
  have hne : x ≠ a := by
    rintro rfl
    simp [hx] at ha
  exact ⟨Cells.rising_set a b q hq, by rw [Cells.get?_set a x b q hq, if_neg hne, hnone]⟩

/-- A status read keeps MEM at an address PEND does not list. -/
theorem statusRead_read_of_not_pending {d : MemDevice} {x : Nat} (hwf : Memory.wf d.mem) (hrise : Cells.rising d.pend)
    (hx : Cells.get? x d.pend = none) : Memory.read x d.statusRead.mem = Memory.read x d.mem := by
  rw [d.statusRead_read hwf hrise x, hx]
  simp

/-- A pass of the poll keeps MEM at an address PEND does not list, whatever the bus answers. -/
theorem pollPass_read {s : State} {x : Nat} (hwf : Memory.wf s.dev.mem) (hrise : Cells.rising s.dev.pend)
    (hx : Cells.get? x s.dev.pend = none) : Memory.read x (pollPass s).dev.mem = Memory.read x s.dev.mem := by
  cases hlimit : pollExhausted s with
  | true => rw [pollPass_exhausted s hlimit]
  | false =>
    cases hres : frameInResult s with
    | ok =>
      obtain ⟨-, -, -, -, hdev, -⟩ := pollPass_ok s hlimit hres
      rw [hdev]
      exact statusRead_read_of_not_pending hwf hrise hx
    | failed =>
      obtain ⟨-, -, -, -, hdev, -⟩ := pollPass_failed s hlimit hres
      rw [hdev]

theorem programFailed_pend_rising (p : Params) (t a : Nat) (d : MemDevice) :
    Cells.rising (d.programFailed p t a).pend := by
  simp only [MemDevice.programFailed]
  split
  · exact drawPend_rising _ _
  · exact .nil

/-- A failed program frame over a ready device leaves PEND without an address it does not touch (20_memory R77). -/
theorem programFailed_pend_none {p : Params} {d : MemDevice} {a x : Nat} (t : Nat) (hw : d.wip = false)
    (hx : x ∉ touched p a) : Cells.get? x (d.programFailed p t a).pend = none := by
  simp only [MemDevice.programFailed]
  split
  · exact drawPend_get?_none t (by simp [hw, hx])
  · rfl

/-- A failed program frame keeps MEM at the addresses it does not touch (20_memory R77). -/
theorem programFailed_read {p : Params} {d : MemDevice} {a x : Nat} (t : Nat) (hwf : Memory.wf d.mem)
    (hx : x ∉ touched p a) : Memory.read x (d.programFailed p t a).mem = Memory.read x d.mem :=
  drawMem_read t x (touched p a) d.mem hwf hx

/-- A write-enable frame that returns `Ok` sets the latch of a ready device. -/
theorem mwWren_dev_ready {s : State} (m : MwState) (hw : s.dev.wip = false) (h0 : s.result 0 = .ok) :
    (mwWren m s).dev = { s.dev with wel := true, selected := false } := by
  have e0 : State.result { s with mwState := MwState.wren } 0 = .ok := h0
  simp [mwWren, frameOut_dev, e0, MemDevice.hears, complete_wren_ready _ _ _ hw]

/-- A program frame whose transmit fails. -/
theorem frameOut_dev_failed_program {s : State} {a : StorageAddr} {d : List Byte} (x : Site) (hd : d ≠ [])
    (hr : s.result 0 = .failed) : (frameOut (programBytes a d) x s).dev =
      { s.dev.programFailed s.cfg s.draws a.toNat with selected := false } := by
  rw [frameOut_dev, hr, parse_program a d hd]
  rfl

/-- Settles O31: the failed frame sets BUS_FAIL and leaves PEND without an address of another page, so neither it nor the
status frame that follows changes a byte there. -/
theorem failedProgramFrameSparesOtherPages : Obligations.FailedProgramFrameSparesOtherPages := by
  intro s a len d hidle hwf hlen hrange hpage hd hw h0 h1
  let e := mwWren .program s
  let w := frameOut (programBytes a d) .mwProgramTx e
  have hwrite : effect (.mwPageWrite a len d) s = waitRdy w :=
    pageWrite_accepted a len d s (by simp [inRange, hlen, hrange]) (by simp [inPage, hpage]) hd
  have he : e.dev = { s.dev with wel := true, selected := false } := mwWren_dev_ready .program hw h0
  have hfail : e.result 0 = .failed := (result_shift s e 1 0 (by simp [e]) (by simp [e, mwWren])).trans h1
  have hne : d ≠ [] := List.ne_nil_of_length_pos (by omega)
  have hwdev : w.dev = { e.dev.programFailed s.cfg e.draws a.toNat with selected := false } := by
    simpa [e] using frameOut_dev_failed_program (s := e) (a := a) .mwProgramTx hne hfail
  refine ⟨_, exec_idle hidle _, ?_, fun x hx => ?_⟩
  · rw [hwrite]
    refine waitRdy_blind.keeps_bit ?_
    simp [w, hfail, busFail]
  · have hother : x ∉ touched s.cfg a.toNat := not_touched_of_other_page (by omega) hx
    have hewf : Memory.wf e.dev.mem := by rwa [he]
    have hew : e.dev.wip = false := by rwa [he]
    have hwwf : Memory.wf w.dev.mem := by rw [hwdev]; exact drawMem_wf _ _ _ hewf
    have hrise : Cells.rising w.dev.pend := by rw [hwdev]; exact programFailed_pend_rising _ _ _ _
    have hpend : Cells.get? x w.dev.pend = none := by rw [hwdev]; exact programFailed_pend_none _ hew hother
    rw [hwrite]
    calc Memory.read x (waitRdy w).dev.mem
        = Memory.read x w.dev.mem := pollPass_read (s := { w with mwState := .poll, pollCnt := 0 }) hwwf hrise hpend
      _ = Memory.read x e.dev.mem := by rw [hwdev]; exact programFailed_read _ hewf hother
      _ = Memory.read x s.dev.mem := by rw [he]

/-! ## A write, then a read -/

/-- MR.READ of a ready device, both primitives `Ok`, leaves MEM's bytes in RDATA (42_memory_read_engine R160). -/
theorem memoryRead_rdata_ready {s : State} {a : StorageAddr} {n : Nat} (hr : inRange s.cfg a n = true)
    (hw : s.dev.wip = false) (hok : s.okFor 2) : (memoryRead a n s).rdata = Memory.readMany a.toNat n s.dev.mem := by
  have hn : n ≠ 0 := by
    rintro rfl
    simp [inRange] at hr
  let r : State := { s with mrState := .read }
  have hres : frameInResult r = .ok := (bothOk_eq_ok _ _).mpr ⟨hok 0 (by omega), hok 1 (by omega)⟩
  have hbytes : frameInBytes (readBytes a) n r = Memory.readMany a.toNat n s.dev.mem := by
    simp only [frameInBytes, hres, parse_read a n hn]
    exact answer_read_ready r.draws hw hr
  simp only [memoryRead, hr, Bool.not_true, Bool.false_eq_true, if_false]
  show (takeData (frameInResult r) (frameInBytes (readBytes a) n r) n _).rdata = _
  rw [hres, hbytes]
  rfl

/-- A range of MEM that holds d reads as d. -/
theorem readMany_eq {a : Nat} {d : List Byte} {m : List Host.Cell}
    (h : ∀ k, k < d.length → Memory.read (a + k) m = d.getD k 0#8) : Memory.readMany a d.length m = d := by
  refine List.ext_getElem (readMany_length _ _ _) fun k hk hkd => ?_
  simp [Memory.readMany, h k hkd, hkd]

/-- Settles O41: the write runs to its end in k further steps with d in MEM, and the read that follows answers from MEM. -/
theorem writeThenReadRoundTrip : Obligations.WriteThenReadRoundTrip := by
  intro s a len k d hidle hinv hlen hrange hpage hd hw hk ha hok
  obtain ⟨hsc, -, hmr, hlo⟩ := of_not_busy s hidle
  have hr : inRange s.cfg a len = true := by simp [inRange, hlen, hrange]
  have hp : inPage s.cfg a len = true := by simp [inPage, hpage]
  have houtside : s.loState ≠ .persist := by rcases hlo with h | h <;> simp [h]
  obtain ⟨t, hrun, ht⟩ := write_finishes a len k d s hsc hmr hr hp hd hw (hinv.pendIdle hw) hk ha
    fun i hi => hok i (by omega)
  have htlo : t.loState = s.loState := by rw [ht]
  rw [afterPersist_outside _ (by simpa using houtside), afterPersist_outside t (htlo ▸ houtside)] at hrun
  have htidle : t.busy = false :=
    (busy_same s t (by rw [ht]) (by rw [ht, (of_not_busy s hidle).2.1]) (by rw [ht]) htlo).trans hidle
  have htw : t.dev.wip = false := by rw [ht]; exact hw
  have hcfg : t.cfg = s.cfg := by rw [ht]
  have hmem (x : Nat) : Memory.read x t.dev.mem =
      if a.toNat ≤ x ∧ x < a.toNat + len then d.getD (x - a.toNat) 0#8 else Memory.read x s.dev.mem := by
    rw [ht]
    exact read_written s.cfg a len d s.dev.mem x hp hd hinv.memCanonical
  have htok : t.okFor 2 := fun i hi => by
    rw [result_shift s t (2 * k + 4) i (by rw [ht]) (by rw [ht])]
    exact hok _ (by omega)
  refine ⟨_, t, _, exec_idle hidle _, hrun, htidle, hmem, htw, by rw [ht], by rw [ht], exec_idle htidle _, ?_⟩
  calc (effect (.mrRead a len) t).rdata
      = Memory.readMany a.toNat len t.dev.mem := memoryRead_rdata_ready (hcfg ▸ hr) htw htok
    _ = d := by
      subst hd
      exact readMany_eq fun i hi => by rw [hmem, if_pos (by omega), Nat.add_sub_cancel_left]

end Sys2Proof.Machine
end

section
/-! SUPPORT. The encodings of 30_encoding: the bytes of an address and of SA8, and what the parsers of the two buses and the
decoder read from the formats R91 to R103. -/

namespace Sys2Proof.Machine

/-! ## Bytes of addresses -/

theorem addrHi_toNat (a : StorageAddr) : (addrHi a).toNat = a.toNat / 256 := by
  have ha : a.toNat < 65536 := a.isLt
  simp only [addrHi, BitVec.extractLsb'_toNat, Nat.shiftRight_eq_div_pow]
  omega

theorem addrLo_toNat (a : StorageAddr) : (addrLo a).toNat = a.toNat % 256 := by
  simp [addrLo, BitVec.extractLsb'_toNat]

@[simp] theorem addrHi_joinAddr (ah al : Byte) : addrHi (joinAddr ah al) = ah :=
  BitVec.extractLsb'_append_eq_left

@[simp] theorem addrLo_joinAddr (ah al : Byte) : addrLo (joinAddr ah al) = al :=
  BitVec.extractLsb'_append_eq_right

theorem sa8_toNat (p : Params) : p.sa8.toNat = 2 * p.sensorAddr7.toNat := by
  have ha : p.sensorAddr7.toNat < 128 := p.sensorAddr7.isLt
  simp only [Params.sa8, BitVec.toNat_shiftLeft, BitVec.toNat_setWidth, Nat.shiftLeft_eq]
  omega

theorem sa8_getLsbD_succ (p : Params) {k : Nat} (hk : k < 7) : p.sa8.getLsbD (k + 1) = p.sensorAddr7.getLsbD k := by
  simp [Params.sa8, hk, Nat.succ_lt_succ hk]

/-- Settles O6: both bytes as numbers, the two formats, and joining what was split. -/
theorem addressBytesAreBigEndian : Obligations.AddressBytesAreBigEndian := fun a _ =>
  ⟨addrHi_toNat a, addrLo_toNat a, rfl, rfl, joinAddr_addrHi_addrLo a⟩

/-- Settles O7: as a number, and bit by bit. -/
theorem sensorAddressByte : Obligations.SensorAddressByte := fun p =>
  ⟨sa8_toNat p, by simp [Params.sa8], fun _ hk => sa8_getLsbD_succ p hk⟩

/-! ## Decoding what was encoded -/

@[simp] theorem parse_wrdi : Frame.parse [opWrdi] 0 = .wrdi := rfl

@[simp] theorem parse_wrsr (operand : List Byte) : Frame.parse (opWrsr :: operand) 0 = .wrsr operand := rfl

theorem parse_sensorReset (p : Params) : Transfer.parse p p.broadcastAddr8 [cmdSensorReset] = .reset := by
  simp [Transfer.parse]

theorem decode_pageWrite (p : Params) {addr : StorageAddr} {len : Nat} {data : List Byte} (h : data.length = len) :
    decode p (.command 4#3 addr len data) = .instr (.mwPageWrite addr len data) := by
  simp [decode, decodeCommand, h]

/-- Settles O1: every row's format is read back as the row, on the command port by its code and on a bus by its parser. -/
theorem decodeOfEncode : Obligations.DecodeOfEncode := by
  intro p i hwf
  cases i with
  | scReset | scConfig | scRead | mwWren | mwWaitRdy | mrRead | loRun => rfl
  | mwPageWrite addr len data => exact decode_pageWrite p (by simpa [Instr.wellFormed] using hwf)
  | devRead a n =>
    have hn : n ≠ 0 := by simpa [Instr.wellFormed, Nat.pos_iff_ne_zero] using hwf
    exact congrArg Frame.decoded (parse_read a n hn)
  | devWrite a d =>
    have hd : d ≠ [] := by simpa [Instr.wellFormed] using hwf
    exact congrArg Frame.decoded (parse_program a d hd)
  | devWrdi => exact congrArg Frame.decoded parse_wrdi
  | devWren => exact congrArg Frame.decoded parse_wren
  | devRdsr => exact congrArg Frame.decoded parse_rdsr
  | devWrsr operand => exact congrArg Frame.decoded (parse_wrsr operand)
  | senReset => exact congrArg Transfer.decoded (parse_sensorReset p)
  | senConfig v => exact congrArg Transfer.decoded (parse_config p v)
  | senPointer => exact congrArg Transfer.decoded (parse_pointer p)
  | senRead => simp [encode, decode]

/-- Settles O4: one case per value of op; only MW.PAGEWRITE looks at its data. -/
theorem everyCommandCodeIsAnOperation : Obligations.EveryCommandCodeIsAnOperation := by
  intro p op addr len data hdata
  match op with
  | 0#3 | 1#3 | 2#3 | 3#3 | 5#3 | 6#3 | 7#3 => exact ⟨_, rfl, rfl⟩
  | 4#3 => exact ⟨_, rfl, decode_pageWrite p (hdata rfl)⟩

/-- Settles O5: each word is one of the formats, and 0x07 is no opcode. -/
theorem listedWordsDecode : Obligations.ListedWordsDecode := fun p =>
  ⟨congrArg Frame.decoded (parse_program 0x1FFE#16 [0x19#8, 0x00#8] nofun),
    congrArg Frame.decoded (parse_read 0x1FFE#16 2 nofun), rfl, rfl, rfl,
    congrArg Transfer.decoded (parse_config p 0x81#8), rfl⟩

/-! ## Encoding what was decoded -/

/-- Parsing loses nothing of a frame, on every branch: R99 to R102 are inverted, and a frame not listed is kept whole. -/
theorem parse_carries (tx : List Byte) (n : Nat) :
    (Frame.parse tx n).txBytes = tx ∧ (Frame.parse tx n).rxLen = n := by
  unfold Frame.parse
  repeat' split
  all_goals simp_all [Frame.txBytes, Frame.rxLen]

/-- The branches of a read frame and of a program frame are taken only where they carry a byte (R101, R102). -/
theorem wellFormed_of_parse {tx : List Byte} {n : Nat} {i : Instr} (h : (Frame.parse tx n).decoded = .instr i) :
    i.wellFormed = true := by
  unfold Frame.parse at h
  repeat' split at h
  all_goals cases h
  all_goals simp_all [Instr.wellFormed, Nat.pos_iff_ne_zero]

theorem encode_of_frame (p : Params) {f : Frame} {i : Instr} (h : f.decoded = .instr i) :
    encode p i = .memFrame f.txBytes f.rxLen := by
  cases f <;> cases h <;> rfl

theorem encode_of_parse (p : Params) {tx : List Byte} {n : Nat} {i : Instr}
    (h : (Frame.parse tx n).decoded = .instr i) : encode p i = .memFrame tx n := by
  obtain ⟨htx, hrx⟩ := parse_carries tx n
  rw [encode_of_frame p h, htx, hrx]

/-- A sensor write read as an instruction is the instruction's own encoding (R94 to R96). -/
theorem twiWrite_of_parse {p : Params} {a8 : Byte} {bytes : List Byte} {i : Instr}
    (h : (Transfer.parse p a8 bytes).decoded = .instr i) : i.wellFormed = true ∧ encode p i = .twiWrite a8 bytes := by
  unfold Transfer.parse at h
  split at h
  case h_1 b =>
    split_ifs at h with hreset hpointer
    · obtain ⟨rfl, rfl⟩ := hreset
      cases h
      exact ⟨rfl, rfl⟩
    · obtain ⟨rfl, rfl⟩ := hpointer
      cases h
      exact ⟨rfl, rfl⟩
    · cases h
  case h_2 b v =>
    split_ifs at h with hconfig
    · obtain ⟨rfl, rfl⟩ := hconfig
      cases h
      exact ⟨rfl, rfl⟩
    · cases h
  case h_3 => cases h

theorem twiRead_of_decode {p : Params} {a8 : Byte} {n : Nat} {i : Instr} (h : decode p (.twiRead a8 n) = .instr i) :
    i.wellFormed = true ∧ encode p i = .twiRead a8 n := by
  simp only [decode] at h
  split_ifs at h with haddr
  obtain ⟨rfl, rfl⟩ := haddr
  cases h
  exact ⟨rfl, rfl⟩

/-- The one command that is refused for its operands is MW.PAGEWRITE (R91). -/
theorem wellFormed_of_decodeCommand {op : BitVec 3} {addr : StorageAddr} {len : Nat} {data : List Byte} {i : Instr}
    (h : decodeCommand op addr len data = .instr i) : i.wellFormed = true := by
  unfold decodeCommand at h
  split at h
  case h_5 =>
    split_ifs at h with hlen
    cases h
    simpa [Instr.wellFormed] using hlen
  all_goals
    cases h
    rfl

/-- Settles O2: port by port, from what each parser asks of the operands. -/
theorem decodedIsWellFormed : Obligations.DecodedIsWellFormed := by
  intro p r i h
  cases r with
  | command op addr len data => exact wellFormed_of_decodeCommand h
  | memFrame tx n => exact wellFormed_of_parse h
  | twiWrite a8 bytes => exact (twiWrite_of_parse h).1
  | twiRead a8 n => exact (twiRead_of_decode h).1
  | hardReset => cases h

/-- Settles O3: bus by bus, since no parser loses anything of what it reads as an instruction. -/
theorem encodeOfDecodedTransfer : Obligations.EncodeOfDecodedTransfer := by
  intro p r i hcmd h
  cases r with
  | command op addr len data => exact absurd rfl (hcmd op addr len data)
  | memFrame tx n => exact encode_of_parse p h
  | twiWrite a8 bytes => exact (twiWrite_of_parse h).2
  | twiRead a8 n => exact (twiRead_of_decode h).2
  | hardReset => cases h

end Sys2Proof.Machine
end

section
/-! SUPPORT. A step that takes a request: a word placed on the command port, and a frame or transfer the spec does not
describe. -/

namespace Sys2Proof.Machine

theorem atRest_idle (s : State) : s.atRest.busy = false := by
  cases h : s.loState <;> simp [State.atRest, State.busy, LoState.running, h]

theorem decoded_of_instr? {d : Decoded} {i : Instr} (h : d.instr? = some i) : d = .instr i := by
  cases d <;> cases h
  rfl

/-- With BUSY = 0 a request that is an instruction is executed. -/
theorem step_executes {s : State} {r : Request} {rest : List Request} {i : Instr} (hidle : s.busy = false)
    (hq : s.requests = r :: rest) (hd : decode s.cfg r = .instr i) : step s = exec i { s with requests := rest } := by
  rw [step_serves hidle hq]
  simp only [serve, hd]

/-- Settles O10: a table word stands on the command port, whose decoding looks at no parameter, and is the next request of
a state at rest. -/
theorem fetchedWordIsExecuted : Obligations.FetchedWordIsExecuted := by
  intro s nbits w i h
  have hd : decode s.cfg (requestOfWord nbits w) = .instr i := decoded_of_instr? (d := decode Config.reference _) h
  exact step_executes (s := s.withFetchWord nbits w) (atRest_idle s) rfl hd

/-- A frame or transfer the spec does not describe, put on its bus with BUSY = 0, is answered with every register of CORE as
it was. -/
theorem rejected_keeps_core {r : Request} {s : State} (hidle : s.busy = false)
    (hcmd : ∀ op a n d, r ≠ .command op a n d) (hreset : r ≠ .hardReset) :
    ∃ t, rejected r s = .next t ∧
      t = { s with dev := t.dev, sensor := t.sensor, trace := t.trace, programs := t.programs, draws := t.draws } := by
  cases r with
  | command op addr len data => exact absurd rfl (hcmd op addr len data)
  | memFrame tx n => exact ⟨foreignFrame _ s, whenIdle_idle _ s hidle, by ext1 <;> simp⟩
  | twiWrite a8 bytes => exact ⟨strangeWrite a8 bytes s, whenIdle_idle _ s hidle, by ext1 <;> simp⟩
  | twiRead a8 n => exact ⟨strangeRead a8 n s, whenIdle_idle _ s hidle, by ext1 <;> simp⟩
  | hardReset => exact absurd rfl hreset

/-- Settles O15: the step serves the request as one that is no instruction, and it is not the hardware reset, which the
decoder does not reject. -/
theorem unlistedTransferLeavesCoreAlone : Obligations.UnlistedTransferLeavesCoreAlone := by
  intro s r rest why hidle hq hd hcmd
  have hreset : r ≠ .hardReset := by
    rintro rfl
    cases hd
  rw [step_serves hidle hq]
  simp only [serve, hd]
  exact rejected_keeps_core (s := { s with requests := rest }) hidle hcmd hreset

end Sys2Proof.Machine
end

section
/-! SUPPORT. The three operations of the sensor controller (40_sensor_controller) and the decode of a sample. -/

namespace Sys2Proof.Machine

/-! ## The decode of a sample -/

/-- The twelve bits: the high byte above the upper half of the low byte (R123). -/
theorem decodeSample_eq_append (hi lo : Byte) :
    decodeSample hi lo = (hi ++ lo.extractLsb' 4 4).cast (by decide : 8 + 4 = 12) := by
  refine BitVec.eq_of_getLsbD_eq fun k hk => ?_
  rw [BitVec.getLsbD_cast, BitVec.getLsbD_append, BitVec.getLsbD_extractLsb']
  by_cases hlow : k < 4
  · have hin : 4 + k < 16 := by omega
    simp [decodeSample, hk, hlow, hin]
  · have hdropped : lo.getLsbD (4 + k) = false := BitVec.getLsbD_of_ge lo _ (by omega)
    simp [decodeSample, hk, hlow, hdropped]

theorem decodeSample_getLsbD (hi lo : Byte) (k : Nat) :
    (decodeSample hi lo).getLsbD k = if k < 4 then (lo.extractLsb' 4 4).getLsbD k else hi.getLsbD (k - 4) := by
  rw [decodeSample_eq_append, BitVec.getLsbD_cast, BitVec.getLsbD_append]

theorem decodeSample_toNat (hi lo : Byte) : (decodeSample hi lo).toNat = hi.toNat * 16 + lo.toNat / 16 := by
  have hlo : lo.toNat < 256 := lo.isLt
  rw [decodeSample_eq_append, BitVec.toNat_cast, BitVec.toNat_append, ← Nat.shiftLeft_add_eq_or_of_lt (BitVec.isLt _)]
  simp only [BitVec.extractLsb'_toNat, Nat.shiftLeft_eq, Nat.shiftRight_eq_div_pow]
  omega

/-- Settles O8: the bits are those of the two parts, and the temperature is a sixteenth of the number. -/
theorem sampleDecodeBitByBit : Obligations.SampleDecodeBitByBit := by
  intro hi lo
  refine ⟨fun k _ => ?_, fun k hk => ?_, decodeSample_toNat hi lo, ?_⟩
  · simp [decodeSample_getLsbD]
  · simp [decodeSample_getLsbD, hk, Nat.add_comm]
  · rw [celsius, decodeSample_toNat, div_eq_mul_one_div]

/-! ## SC.RESET and SC.CONFIG -/

/-- SC.RESET in full but for what the sensor becomes (R120). -/
theorem scReset_frame (s : State) :
    scReset s = { s with
      err := busFail (s.result 0) s.err
      trace := s.trace ++
        [.tw s.cfg.broadcastAddr8 [cmdSensorReset] (s.result 0), .rpt (resultKind (s.result 0)) .scResetTx]
      busCalls := s.busCalls + 1, sensor := (scReset s).sensor, draws := (scReset s).draws } := by
  ext1 <;> simp [scReset]

/-- SC.CONFIG in full but for what the sensor becomes (R121). -/
theorem scConfig_frame (s : State) :
    scConfig s = { s with
      err := busFail (s.result 0) s.err
      trace := s.trace ++
        [.tw s.cfg.sa8 [ptrConfig, s.cfg.cfgShutdown] (s.result 0), .rpt (resultKind (s.result 0)) .scConfigTx]
      busCalls := s.busCalls + 1, sensor := (scConfig s).sensor, draws := (scConfig s).draws } := by
  ext1 <;> simp [scConfig]

/-- An `Ok` configuration transfer is taken by the sensor (20_memory R81). -/
theorem scConfig_sensor {s : State} (hok : s.result 0 = .ok) :
    (scConfig s).sensor = s.sensor.configure s.cfg s.draws s.cfg.cfgShutdown := by
  simp [scConfig, hok, twiWrite, sensorHears, parse_config, Sensor.takes]

/-- Settles O16: SC.RESET is issued, and its frame says what it leaves. -/
theorem scResetSendsBroadcast : Obligations.ScResetSendsBroadcast := fun s hidle =>
  ⟨scReset s, exec_idle hidle .scReset, scReset_frame s⟩

/-- Settles O17: SC.CONFIG is issued, its frame says what it leaves, and after `Ok` the sensor holds what was written. -/
theorem scConfigSelectsShutdown : Obligations.ScConfigSelectsShutdown := fun s hidle =>
  ⟨scConfig s, exec_idle hidle .scConfig, scConfig_frame s, fun hok =>
    scConfig_sensor hok ▸ ⟨rfl, rfl⟩⟩

/-! ## SC.READ -/

@[simp] theorem takeSample_err (r : BusResult) (b : Byte × Byte) (s : State) :
    (takeSample r b s).err = busFail r s.err := by
  cases r <;> simp [takeSample, busFail]

/-- With BUS_FAIL already set for the failures of the three transfers, ACQ_DEGRADED joins it (R130). -/
theorem noteDegraded_err_of_busFail {a b c : BusResult} {s : State} {e : BitVec 5}
    (h : s.err = busFail (bothOk (bothOk a b) c) e) :
    (noteDegraded a b c s).err = degradedErr (bothOk (bothOk a b) c) e := by
  rw [noteDegraded_err, h]
  cases bothOk (bothOk a b) c <;> simp [busFail, degradedErr, BitVec.or_assoc]

/-- The failures noted along the way amount to one, and AcquisitionDegraded is raised with it (10_state R33). -/
theorem scRead_err (s : State) :
    (scRead s).err = degradedErr (bothOk (bothOk (s.result 0) (s.result 1)) (s.result 2)) s.err := by
  simp only [scRead]
  apply noteDegraded_err_of_busFail
  simp [busFail_busFail]

theorem scRead_raw12 (s : State) :
    (scRead s).raw12 = decodeSample (scRead s).sampleHi (scRead s).sampleLo := by
  simp [scRead]

/-- The bytes of an `Ok` read are kept (R122). -/
theorem scRead_sample {s : State} (hok : s.result 2 = .ok) :
    (scRead s).sampleHi = (s.sample 0).1 ∧ (scRead s).sampleLo = (s.sample 0).2 := by
  simp [scRead, hok, takeSample]

/-- SC.READ in full but for the two bytes and what the sensor becomes (R122). -/
theorem scRead_frame (s : State) :
    scRead s = { s with
      scState := .idle, sampleHi := (scRead s).sampleHi, sampleLo := (scRead s).sampleLo
      raw12 := decodeSample (scRead s).sampleHi (scRead s).sampleLo
      err := degradedErr (bothOk (bothOk (s.result 0) (s.result 1)) (s.result 2)) s.err
      trace := s.trace ++
        ([.tw s.cfg.sa8 [ptrConfig, s.cfg.cfgOneshot] (s.result 0)] ++
          failureReport (s.result 0) .scReadTriggerTx ++ [.dly s.cfg.convDelayMs] ++
          [.tw s.cfg.sa8 [ptrTemp] (s.result 1)] ++ failureReport (s.result 1) .scReadPointerTx ++
          [.tr s.cfg.sa8 2 (s.result 2) [(s.sample 0).1, (s.sample 0).2]] ++
          failureReport (s.result 2) .scReadRx ++
          degradedReport (bothOk (bothOk (s.result 0) (s.result 1)) (s.result 2)))
      busCalls := s.busCalls + 3, samples := s.samples + 1, sensor := (scRead s).sensor, draws := (scRead s).draws } := by
  ext1
  case err => exact scRead_err s
  case raw12 => exact scRead_raw12 s
  case trace => simp [scRead, State.sample]
  all_goals simp [scRead]

/-- Settles O18: SC.READ is issued with SC_STATE idle, which it is again at the end, and its frame says every step. -/
theorem scReadPerformsEveryStep : Obligations.ScReadPerformsEveryStep := by
  intro s hidle
  obtain ⟨hsc, -⟩ := of_not_busy s hidle
  refine ⟨scRead s, exec_idle hidle .scRead, ?_, scRead_sample⟩
  rw [hsc]
  exact scRead_frame s

end Sys2Proof.Machine
end

section
/-! SUPPORT. One pass of the poll of MW.WAITRDY in full, and the pass with what follows it inside LO_PERSIST
(41_memory_write_engine R142, R145, R149). -/

namespace Sys2Proof.Machine

/-! ## A status frame -/

/-- The byte the coming status frame clocks in: the device's status, or a draw where a primitive fails (20_memory R74,
R77). -/
def State.statusReceived (s : State) : Byte :=
  match frameInResult s with
  | .ok => statusOf (Config.freeStatus s.draws) s.dev.statusRead.wip
  | .failed => Config.freeByte s.draws 0

theorem frameInBytes_statusReceived (s : State) : frameInBytes [opRdsr] 1 s = [s.statusReceived] := by
  cases hr : frameInResult s with
  | ok => rw [frameInBytes_rdsr s hr, State.statusReceived, hr]
  | failed => simp [frameInBytes, State.statusReceived, hr, drawBytes]

theorem statusReceived_bit_zero {s : State} (hr : frameInResult s = .ok) :
    s.statusReceived.getLsbD 0 = s.dev.statusRead.wip := by
  rw [State.statusReceived, hr]
  exact statusOf_bit_zero _ _

/-- The events of the coming status frame (30_encoding R100; 60_exceptions R198). -/
def State.statusFrame (s : State) : List Event :=
  [.sel, .tx [opRdsr] (s.result 0)] ++ failureReport (s.result 0) .mwPollTx ++
    [.rx 1 (s.result 1) [s.statusReceived]] ++ failureReport (s.result 1) .mwPollRx ++ [.des]

theorem statusFrame_ok {s : State} (hr : frameInResult s = .ok) :
    s.statusFrame = [.sel, .tx [opRdsr] .ok, .rx 1 .ok [s.statusReceived], .des] := by
  obtain ⟨h0, h1⟩ := (bothOk_eq_ok _ _).mp hr
  simp [State.statusFrame, h0, h1, failureReport]

theorem failureReport_statusReads (r : BusResult) (x : Site) : (failureReport r x).countP Event.isStatusRead = 0 := by
  cases r <;> rfl

theorem statusFrame_statusReads (s : State) : s.statusFrame.countP Event.isStatusRead = 1 := by
  simp [State.statusFrame, List.countP_append, failureReport_statusReads, Event.isStatusRead]

/-! ## A pass below the limit -/

/-- A pass below the limit in full but for what its status frame observes (R142, R149). -/
theorem pollPass_frame {s : State} (hx : pollExhausted s = false) :
    pollPass s = { s with
      mwState := (pollPass s).mwState, pollCnt := s.pollCnt + 1, statusByte := (pollPass s).statusByte
      dev := (pollPass s).dev, busCalls := s.busCalls + 2, draws := (pollPass s).draws
      err := busFail (frameInResult s) s.err, trace := s.trace ++ s.statusFrame } := by
  ext1
  case err => exact pollPass_err s hx
  case trace => simp [pollPass, hx, frameInBytes_statusReceived, State.statusFrame]
  case pollCnt => simp [pollPass, hx, takeStatus_pollCnt]
  case busCalls => simp [pollPass, hx]
  case programs => simp [pollPass, hx, frameIn_programs, MemDevice.starts]
  all_goals simp

/-- With both primitives `Ok` the byte received is taken, and the poll goes on exactly while it shows WIP = 1 (R142). -/
theorem pollPass_observes {s : State} (hx : pollExhausted s = false) (hr : frameInResult s = .ok) :
    (pollPass s).statusByte = s.statusReceived ∧
      s.statusReceived.getLsbD 0 = (pollPass s).dev.wip ∧
      (pollPass s).mwState = (if (pollPass s).dev.wip then s.mwState else .idle) ∧
      (pollPass s).dev = { s.dev.statusRead with selected := false } := by
  obtain ⟨hmw, -, hbyte, -, hdev, -⟩ := pollPass_ok s hx hr
  refine ⟨?_, ?_, ?_, hdev⟩
  · rw [hbyte, State.statusReceived, hr]
  · rw [hdev, statusReceived_bit_zero hr]
  · rw [hmw, hdev]

/-- A status frame in which a primitive failed observes nothing (R149). -/
theorem pollPass_observes_nothing {s : State} (hx : pollExhausted s = false) (hr : frameInResult s = .failed) :
    (pollPass s).statusByte = s.statusByte ∧ (pollPass s).mwState = s.mwState ∧
      (pollPass s).dev = { s.dev with selected := false } := by
  obtain ⟨hmw, -, hbyte, -, hdev, -⟩ := pollPass_failed s hx hr
  exact ⟨hbyte, hmw, hdev⟩

theorem pollExhausted_eq_false_iff (s : State) : pollExhausted s = false ↔ s.cfg.pollLimit ≠ .fin s.pollCnt := by
  rw [← Bool.not_eq_true, pollExhausted_iff]

/-! ## A step of the poll -/

theorem polling_mwState {s : State} (h : s.polling = true) : s.mwState = .poll := by
  simp only [State.polling, Bool.and_eq_true, beq_iff_eq] at h
  exact h.2

/-- The step is the pass alone where the poll goes on. -/
theorem step_poll_goes_on {s : State} (h : s.polling = true) (hmw : (pollPass s).mwState ≠ .idle) :
    step s = .next (pollPass s) := by
  rw [step_polling s h, afterPersist_active _ hmw]

/-- Where the poll ends the orchestrator moves on in the same step, if it is in LO_PERSIST (43 R171, R173, R174). -/
theorem step_poll_ends {s : State} (h : s.polling = true) (hmw : (pollPass s).mwState = .idle) :
    step s = .next { pollPass s with
      loState := s.afterWrite.1, done := s.afterWrite.2.1, trace := (pollPass s).trace ++ s.afterWrite.2.2 } := by
  have hafter : (pollPass s).afterWrite = s.afterWrite := by simp [State.afterWrite]
  rw [step_polling s h, afterPersist_eq _ hmw, hafter]

/-- At the limit no frame is sent: WriteTimedOut, and the poll is over (R145). -/
theorem step_poll_at_limit {s : State} (h : s.polling = true) (hlimit : s.cfg.pollLimit = .fin s.pollCnt) :
    step s = .next { s with
      mwState := .idle, err := s.err ||| 0b01000#5, loState := s.afterWrite.1, done := s.afterWrite.2.1
      trace := s.trace ++ [.rpt (.cause .writeTimedOut) .mwPollLimit] ++ s.afterWrite.2.2 } := by
  have hpass := pollPass_exhausted s ((pollExhausted_iff s).mpr hlimit)
  rw [step_poll_ends h (by rw [hpass]), hpass]

/-- Settles O37: the pass observes nothing, so MW_STATE stays MW_POLL and nothing follows it. -/
theorem failedStatusFrameObservesNothing : Obligations.FailedStatusFrameObservesNothing := by
  intro s hpoll hlimit hr
  have hx := (pollExhausted_eq_false_iff s).mpr hlimit
  have hfail : frameInResult s = .failed := hr
  obtain ⟨hbyte, hmw, hdev⟩ := pollPass_observes_nothing hx hfail
  have hactive : (pollPass s).mwState ≠ .idle := by simp [hmw, polling_mwState hpoll]
  have hframe := pollPass_frame hx
  rw [hbyte, hmw, hdev, hfail] at hframe
  exact ⟨pollPass s, s.statusReceived, step_poll_goes_on hpoll hactive, hframe⟩

/-- A pass whose frame is `Ok` leaves MEM as it was but where the device ends its program operation (20_memory R78). -/
theorem pollPass_read_ok {s : State} (hx : pollExhausted s = false) (hr : frameInResult s = .ok)
    (hwf : Memory.wf s.dev.mem) (hrise : Cells.rising s.dev.pend) (x : Nat) :
    Memory.read x (pollPass s).dev.mem =
      if s.dev.wip = true ∧ (pollPass s).dev.wip = false then (Cells.get? x s.dev.pend).getD (Memory.read x s.dev.mem)
      else Memory.read x s.dev.mem := by
  obtain ⟨-, -, -, hdev⟩ := pollPass_observes hx hr
  rw [hdev]
  exact s.dev.statusRead_read hwf hrise x

/-- Settles O58: the step at the limit, and below it the pass with bit 0 of the byte received saying whether the poll goes
on. -/
theorem pollEndsOnStatusByteOrLimit : Obligations.PollEndsOnStatusByteOrLimit := by
  intro s hpoll
  refine ⟨step_poll_at_limit hpoll, fun hlimit hr => ?_⟩
  have hx := (pollExhausted_eq_false_iff s).mpr hlimit
  have hok : frameInResult s = .ok := hr
  obtain ⟨hbyte, hwip, hmw, hdev⟩ := pollPass_observes hx hok
  have hready : s.dev.wip = false → (pollPass s).dev = { s.dev with selected := false } := fun hw => by
    rw [hdev, statusRead_ready hw]
  have hmem := pollPass_read_ok hx hok
  have hframe := pollPass_frame hx
  rw [hbyte, hok, statusFrame_ok hok] at hframe
  cases hbit : s.statusReceived.getLsbD 0 with
  | true =>
    have hstay : (pollPass s).mwState = .poll := by rw [hmw, ← hwip, hbit, if_pos rfl, polling_mwState hpoll]
    refine ⟨pollPass s, s.statusReceived, step_poll_goes_on hpoll (by simp [hstay]), hwip, ?_, hready, hmem⟩
    rw [hbit, hframe, hstay]
    simp [busFail, opRdsr]
  | false =>
    have hend : (pollPass s).mwState = .idle := by rw [hmw, ← hwip, hbit, if_neg Bool.false_ne_true]
    refine ⟨_, s.statusReceived, step_poll_ends hpoll hend, hwip, ?_, hready, hmem⟩
    rw [hbit, hframe, hend]
    simp [busFail, opRdsr]

end Sys2Proof.Machine
end

section
/-! SUPPORT. MW.WAITRDY from its issue to its last pass (41_memory_write_engine R142, R145, R148; 60_exceptions R194). -/

namespace Sys2Proof.Machine

/-! ## The first pass -/

/-- s with MW.WAITRDY issued and no pass made: MW_STATE at MW_POLL, POLL_CNT at 0 (R142). -/
def State.waiting (s : State) : State := { s with mwState := .poll, pollCnt := 0 }

theorem waitRdy_eq (s : State) : waitRdy s = pollPass s.waiting := rfl

theorem waiting_polling {s : State} (hidle : s.busy = false) : s.waiting.polling = true := by
  obtain ⟨hsc, -, hmr, -⟩ := of_not_busy s hidle
  simp [State.polling, State.waiting, hsc, hmr]

theorem not_persist_of_not_busy {s : State} (hidle : s.busy = false) : s.loState ≠ .persist := by
  obtain ⟨-, -, -, hlo | hlo⟩ := of_not_busy s hidle <;> simp [hlo]

/-- BUSY is 0 again when an operation of the write engine issued with BUSY = 0 has ended. -/
theorem not_busy_of_ended {s t : State} (hidle : s.busy = false) (hsc : t.scState = s.scState) (hmw : t.mwState = .idle)
    (hmr : t.mrState = s.mrState) (hlo : t.loState = s.loState) : t.busy = false := by
  obtain ⟨-, hrest, -⟩ := of_not_busy s hidle
  exact (busy_same s t hsc (hmw.trans hrest.symm) hmr hlo).trans hidle

/-- A legal POLL_LIMIT admits the first pass. -/
theorem waiting_not_exhausted {s : State} (hlegal : s.cfg.legal = true) : pollExhausted s.waiting = false :=
  pollExhausted_of_admits s.waiting (pollAdmits_one s.cfg hlegal)

/-- Settles O32: the first pass, in full and then by what its status frame observes. -/
theorem waitRdyFirstPass : Obligations.WaitRdyFirstPass := by
  intro s hidle hlegal hwf hrise
  have hx := waiting_not_exhausted hlegal
  have hframe := pollPass_frame hx
  refine ⟨pollPass s.waiting, s.waiting.statusReceived, exec_idle hidle .mwWaitRdy, hframe, fun hr => ?_, fun hr => ?_,
    fun x => ?_⟩
  · obtain ⟨hbyte, hwip, hmw, -⟩ := pollPass_observes (s := s.waiting) hx hr
    exact ⟨hbyte, hwip, hmw⟩
  · exact pollPass_observes_nothing (s := s.waiting) hx hr
  · cases hr : frameInResult s.waiting with
    | ok => exact pollPass_read_ok hx hr hwf hrise x
    | failed =>
      obtain ⟨-, -, hdev⟩ := pollPass_observes_nothing hx hr
      have hkept : ¬(s.dev.wip = true ∧ (pollPass s.waiting).dev.wip = false) := by
        rw [hdev]
        simp [State.waiting]
      rw [if_neg hkept, hdev]
      rfl

/-- Settles O33: a ready device stays as it is under a status read and shows WIP = 0, which ends the wait. -/
theorem waitRdyCompletesWhenReady : Obligations.WaitRdyCompletesWhenReady := by
  intro s hidle hlegal hw hok
  have hx := waiting_not_exhausted hlegal
  have hr : frameInResult s.waiting = .ok := (bothOk_eq_ok _ _).mpr ⟨hok 0 (by omega), hok 1 (by omega)⟩
  have hread : s.waiting.dev.statusRead = s.dev := statusRead_ready hw
  obtain ⟨hbyte, hwip, hmw, hdev⟩ := pollPass_observes hx hr
  have hready : (pollPass s.waiting).dev.wip = false := by rw [hdev, hread, hw]
  obtain ⟨-, hrest, -⟩ := of_not_busy s hidle
  have hframe := pollPass_frame hx
  rw [hmw, hready, if_neg Bool.false_ne_true, hr, statusFrame_ok hr, ← hbyte, hdev, hread, ← hrest] at hframe
  exact ⟨pollPass s.waiting, exec_idle hidle .mwWaitRdy, hframe, by rw [hbyte, hwip, hready]⟩

/-! ## Passes after which the poll goes on -/

/-- t is s after n status frames of its poll, which goes on. -/
structure StillPolling (s : State) (n : Nat) (t : State) : Prop where
  frame : t = { s with
    pollCnt := s.pollCnt + n, statusByte := t.statusByte, err := t.err, dev := t.dev
    busCalls := s.busCalls + 2 * n, draws := t.draws, trace := t.trace }
  reads : t.trace.countP Event.isStatusRead = s.trace.countP Event.isStatusRead + n
  deselected : 0 < n → t.dev.selected = false

theorem StillPolling.refl (s : State) : StillPolling s 0 s := ⟨rfl, rfl, nofun⟩

theorem StillPolling.cfg {s t : State} {n : Nat} (h : StillPolling s n t) : t.cfg = s.cfg := by rw [h.frame]

theorem StillPolling.pollCnt {s t : State} {n : Nat} (h : StillPolling s n t) :
    t.pollCnt = s.pollCnt + n := by rw [h.frame]

theorem StillPolling.polling {s t : State} {n : Nat} (h : StillPolling s n t) (hpoll : s.polling = true) :
    t.polling = true := by
  rw [h.frame]
  exact hpoll

theorem StillPolling.result {s t : State} {n : Nat} (h : StillPolling s n t) (k : Nat) :
    t.result k = s.result (2 * n + k) :=
  result_shift s t (2 * n) k (by rw [h.frame]) (by rw [h.frame])

theorem pollPass_deselected {s : State} (hx : pollExhausted s = false) : (pollPass s).dev.selected = false := by
  cases hr : frameInResult s with
  | ok =>
    obtain ⟨-, -, -, hdev⟩ := pollPass_observes hx hr
    rw [hdev]
  | failed =>
    obtain ⟨-, -, hdev⟩ := pollPass_observes_nothing hx hr
    rw [hdev]

/-- One more frame that leaves MW_STATE. -/
theorem StillPolling.next {s t : State} {n : Nat} (h : StillPolling s n t) (hx : pollExhausted t = false)
    (hmw : (pollPass t).mwState = t.mwState) : StillPolling s (n + 1) (pollPass t) where
  frame := by
    have hpass := pollPass_frame hx
    rw [hmw] at hpass
    rw [hpass]
    have ht := h.frame
    ext1
    case pollCnt => rw [ht]; exact Nat.add_assoc _ n 1
    case busCalls => rw [ht]; exact Nat.add_assoc _ (2 * n) 2
    all_goals rw [ht]
  reads := by
    rw [pollPass_frame hx, List.countP_append, statusFrame_statusReads, h.reads, Nat.add_assoc]
  deselected := fun _ => pollPass_deselected hx

/-- From a polling state n passes that POLL_LIMIT admits follow one another as long as each leaves MW_STATE. What a pass
needs for that, and more that is wanted of the state it leaves, is a property P of the number of passes made and of the
state after them. -/
theorem poll_goes_on {s : State} {P : Nat → State → Prop} {n : Nat} (hpoll : s.polling = true)
    (hadmit : pollAdmits s.cfg (s.pollCnt + n) = true) (hstart : P 0 s)
    (hpass : ∀ i t, i < n → StillPolling s i t → pollExhausted t = false → P i t →
      (pollPass t).mwState = t.mwState ∧ P (i + 1) (pollPass t)) :
    ∃ t : State, core.run n s = .next t ∧ StillPolling s n t ∧ P n t := by
  induction n with
  | zero => exact ⟨s, rfl, .refl s, hstart⟩
  | succ n ih =>
    obtain ⟨t, hrun, ht, hP⟩ := ih (pollAdmits_le _ _ _ (by omega) hadmit) fun i u hi => hpass i u (by omega)
    have hx : pollExhausted t = false := by
      refine pollExhausted_of_admits t ?_
      rwa [ht.cfg, ht.pollCnt]
    obtain ⟨hmw, hnext⟩ := hpass n t n.lt_succ_self ht hx hP
    have hstep := step_poll_goes_on (ht.polling hpoll) (by simp [hmw, polling_mwState (ht.polling hpoll)])
    exact ⟨pollPass t, by rw [run_add n 1 s t hrun, run_succ 0 t _ hstep, run_zero], ht.next hx hmw, hnext⟩

/-! ## Giving up at POLL_LIMIT -/

theorem afterWrite_outside {s : State} (h : s.loState ≠ .persist) : s.afterWrite = (s.loState, s.done, []) := by
  simp [State.afterWrite, h]

/-- A wait at the limit gives up in one step, where nothing follows it (R145). -/
theorem step_gives_up {s : State} (hpoll : s.polling = true) (houtside : s.loState ≠ .persist)
    (hlimit : s.cfg.pollLimit = .fin s.pollCnt) :
    step s = .next { s with
      mwState := .idle, err := s.err ||| 0b01000#5
      trace := s.trace ++ [.rpt (.cause .writeTimedOut) .mwPollLimit] } := by
  simp only [step_poll_at_limit hpoll hlimit, afterWrite_outside houtside, List.append_nil]

/-- The step that issues MW.WAITRDY is its first pass, so a run from the wait's beginning starts with it. -/
theorem exec_waitRdy_run {s t : State} {n : Nat} (hidle : s.busy = false) (h : core.run (n + 1) s.waiting = .next t) :
    ∃ s1, exec .mwWaitRdy s = .next s1 ∧ core.run n s1 = .next t := by
  have houtside : (waitRdy s).loState ≠ .persist := by simpa using not_persist_of_not_busy hidle
  have hstep : step s.waiting = .next (waitRdy s) := by
    rw [step_polling _ (waiting_polling hidle), ← waitRdy_eq, afterPersist_outside _ houtside]
  exact ⟨waitRdy s, exec_idle hidle .mwWaitRdy, by rwa [run_succ n _ _ hstep] at h⟩

/-- t is the state in which MW.WAITRDY, issued in s, gave up after l status frames; u is the state after the last of them
(R145). -/
structure GaveUp (s : State) (l : Nat) (u t : State) : Prop where
  rest : t.busy = false
  frames : t.pollCnt = l
  kept : t.statusByte = u.statusByte
  raised : t.err = u.err ||| 0b01000#5
  device : t.dev = u.dev
  deselected : u.dev.selected = false
  last : t.trace.getLast? = some (.rpt (.cause .writeTimedOut) .mwPollLimit)
  reads : t.trace.countP Event.isStatusRead = s.trace.countP Event.isStatusRead + l

/-- A wait whose first l passes all go on, POLL_LIMIT being l, gives up. -/
theorem waitRdy_gives_up {s : State} {P : Nat → State → Prop} {l : Nat} (hidle : s.busy = false)
    (hlimit : s.cfg.pollLimit = .fin l) (hl : 0 < l) (hstart : P 0 s.waiting)
    (hpass : ∀ i t, i < l → StillPolling s.waiting i t → pollExhausted t = false → P i t →
      (pollPass t).mwState = t.mwState ∧ P (i + 1) (pollPass t)) :
    ∃ s1 u t : State, exec .mwWaitRdy s = .next s1 ∧ core.run l s1 = .next t ∧ P l u ∧ GaveUp s l u t := by
  have hadmit : pollAdmits s.waiting.cfg (s.waiting.pollCnt + l) = true := by
    simp [pollAdmits, State.waiting, hlimit]
  obtain ⟨u, hrun, hu, hP⟩ := poll_goes_on (waiting_polling hidle) hadmit hstart hpass
  have ⟨hsc, hmr, hlo⟩ : u.scState = s.scState ∧ u.mrState = s.mrState ∧ u.loState = s.loState := by
    rw [hu.frame]
    exact ⟨rfl, rfl, rfl⟩
  have hcnt : u.pollCnt = l := by rw [hu.pollCnt]; exact Nat.zero_add l
  have hstep := step_gives_up (hu.polling (waiting_polling hidle)) (hlo ▸ not_persist_of_not_busy hidle)
    (by rw [hu.cfg, hcnt]; exact hlimit)
  obtain ⟨s1, hexec, hrun1⟩ := exec_waitRdy_run hidle (n := l)
    (by rw [run_add l 1 _ u hrun, run_succ 0 u _ hstep, run_zero])
  exact ⟨s1, u, _, hexec, hrun1, hP, {
    rest := not_busy_of_ended hidle hsc rfl hmr hlo
    frames := hcnt
    kept := rfl
    raised := rfl
    device := rfl
    deselected := hu.deselected hl
    last := List.getLast?_concat
    reads := by
      rw [List.countP_append, hu.reads]
      rfl }⟩

/-! ## A device that never clears WIP, and a failing bus -/

/-- A pass over a device that never clears WIP, or whose frame fails, leaves MW_STATE and the device but for its select
line (R149, 20_memory R78). -/
theorem pollPass_in_vain {s : State} (hx : pollExhausted s = false)
    (hvain : s.dev.neverReady = true ∨ frameInResult s = .failed) :
    (pollPass s).mwState = s.mwState ∧ (pollPass s).dev = { s.dev with selected := false } := by
  cases hr : frameInResult s with
  | ok =>
    have hstuck : s.dev.neverReady = true := by simpa [hr] using hvain
    simp only [MemDevice.neverReady, Bool.and_eq_true, beq_iff_eq] at hstuck
    obtain ⟨hw, hk⟩ := hstuck
    obtain ⟨-, -, hmw, hdev⟩ := pollPass_observes hx hr
    rw [statusRead_stuck hw hk] at hdev
    exact ⟨by rw [hmw, hdev, hw, if_pos rfl], hdev⟩
  | failed =>
    obtain ⟨-, hmw, hdev⟩ := pollPass_observes_nothing hx hr
    exact ⟨hmw, hdev⟩

/-- The device of t is that of s but for the select line. -/
def SameDevice (s t : State) : Prop := t.dev = { s.dev with selected := t.dev.selected }

/-- Settles O35: each of the l passes is in vain, on the device as it was. -/
theorem waitRdyTimesOut : Obligations.WaitRdyTimesOut := by
  intro s l hidle hlimit hl hvain
  obtain ⟨s1, u, t, hexec, hrun, hsame, hend⟩ :=
    waitRdy_gives_up (P := fun _ => SameDevice s) hidle hlimit hl rfl fun i t hi ht hx hsame => by
      have hvain : t.dev.neverReady = true ∨ frameInResult t = .failed := by
        refine hvain.imp (fun hstuck => ?_) fun hfail => ?_
        · rw [hsame]
          exact hstuck
        · rw [frameInResult, ht.result, ht.result]
          exact hfail i hi
      obtain ⟨hmw, hdev⟩ := pollPass_in_vain hx hvain
      refine ⟨hmw, ?_⟩
      rw [SameDevice, hdev, hsame]
  refine ⟨s1, t, hexec, hrun, hend.rest, hend.frames, ?_, ?_, hend.last, hend.reads⟩
  · simp [hend.raised]
  · rw [hend.device, hsame, hend.deselected]

/-! ## A device that counts its status reads down -/

/-- t is s after i status reads of a device that reports WIP set k times: ERR as it was, K_LEFT counted down, WIP = 1 in the
last byte read. -/
structure CountedDown (s : State) (k i : Nat) (t : State) : Prop where
  err : t.err = s.err
  dev : t.dev = { s.dev with kLeft := .fin (k - i), selected := t.dev.selected }
  byte : 0 < i → t.statusByte.getLsbD 0 = true

/-- One status read more while the device still counts (20_memory R78). -/
theorem CountedDown.next {s t : State} {k i : Nat} (h : CountedDown s k i t) (hw : s.dev.wip = true) (hi : i < k)
    (hx : pollExhausted t = false) (hr : frameInResult t = .ok) :
    (pollPass t).mwState = t.mwState ∧ CountedDown s k (i + 1) (pollPass t) := by
  obtain ⟨hbyte, hwip, hmw, hdev⟩ := pollPass_observes hx hr
  have hread : t.dev.statusRead = { t.dev with kLeft := .fin (k - (i + 1)) } := by
    refine statusRead_counts ?_ ?_
    · rw [h.dev]; exact hw
    · rw [h.dev, show k - i = k - (i + 1) + 1 by omega]
  have hbusy : (pollPass t).dev.wip = true := by rw [hdev, hread, h.dev]; exact hw
  refine ⟨by rw [hmw, hbusy, if_pos rfl], ?_, ?_, fun _ => by rw [hbyte, hwip, hbusy]⟩
  · rw [pollPass_err t hx, hr]
    exact h.err
  · rw [hdev, hread, h.dev]

/-- Settles O34: within POLL_LIMIT the poll finishes after k + 1 passes; otherwise each pass up to the limit counts K_LEFT
down, and the wait gives up. -/
theorem waitRdyIssuesOneMoreReadThanBusy : Obligations.WaitRdyIssuesOneMoreReadThanBusy := by
  intro s k hidle hw hk
  refine ⟨fun hadmit hok => ?_, fun l hlimit hl hlk hok => ?_⟩
  · obtain ⟨u, hrun, hpolled, hbit, es, htrace, hreads⟩ :=
      poll_finishes k s.waiting (waiting_polling hidle) hw hk (by simpa [State.waiting] using hadmit) hok
    have hlo : u.loState = s.loState := by rw [hpolled]; rfl
    rw [afterPersist_outside u (hlo ▸ not_persist_of_not_busy hidle)] at hrun
    obtain ⟨s1, hexec, hrun1⟩ := exec_waitRdy_run hidle hrun
    have hrest : u.busy = false :=
      not_busy_of_ended hidle (by rw [hpolled]; rfl) (by rw [hpolled]) (by rw [hpolled]; rfl) hlo
    refine ⟨s1, u, hexec, hrun1, hrest, ?_, hbit, ?_, ?_, ?_, ?_⟩
    · rw [hpolled]; exact Nat.zero_add _
    · rw [hpolled]; rfl
    · rw [hpolled]; rfl
    · rw [hpolled]; rfl
    · rw [htrace, List.countP_append, hreads]; rfl
  · have hstart : CountedDown s k 0 s.waiting := ⟨rfl, by rw [Nat.sub_zero, ← hk]; rfl, nofun⟩
    obtain ⟨s1, u, t, hexec, hrun, hcount, hend⟩ :=
      waitRdy_gives_up (P := CountedDown s k) hidle hlimit hl hstart fun i t hi ht hx hcount =>
        hcount.next hw (by omega) hx <| (bothOk_eq_ok _ _).mpr
          ⟨(ht.result 0).trans (hok _ (by omega)), (ht.result 1).trans (hok _ (by omega))⟩
    refine ⟨s1, t, hexec, hrun, hend.rest, hend.frames, ?_, ?_, ?_, hend.last, hend.reads⟩
    · rw [hend.kept]; exact hcount.byte hl
    · rw [hend.raised, hcount.err]
    · rw [hend.device, hcount.dev, hend.deselected]

end Sys2Proof.Machine
end

section
/-! SUPPORT. MW.WREN and MW.PAGEWRITE (41_memory_write_engine R140, R141, R143, R144, R147). -/

namespace Sys2Proof.Machine

/-! ## The write-enable frame -/

@[simp] theorem mwWren_programs (m : MwState) (s : State) : (mwWren m s).programs = s.programs := by
  simp [mwWren, frameOut_programs, MemDevice.starts]

/-- The write-enable frame in full but for what the device becomes (R140, R146). -/
theorem mwWren_frame (m : MwState) (s : State) :
    mwWren m s = { s with
      mwState := m, err := busFail (s.result 0) s.err
      trace := s.trace ++ ([.sel, .tx [opWren] (s.result 0)] ++ failureReport (s.result 0) .mwWrenTx ++ [.des])
      busCalls := s.busCalls + 1, dev := (mwWren m s).dev, draws := (mwWren m s).draws } := by
  have h0 : State.result { s with mwState := MwState.wren } 0 = s.result 0 := rfl
  ext1
  case err | trace => simp [mwWren, h0]
  case mwState => rfl
  case busCalls => simp [mwWren]
  all_goals simp

/-- Over a ready device only the latch may change, complete or not (20_memory R73, R77). -/
theorem mwWren_dev_of_ready {s : State} (m : MwState) (hw : s.dev.wip = false) :
    (mwWren m s).dev = { s.dev with wel := (mwWren m s).dev.wel, selected := false } := by
  cases h0 : s.result 0 with
  | ok => rw [mwWren_dev_ready m hw h0]
  | failed =>
    have hfail : State.result { s with mwState := MwState.wren } 0 = .failed := h0
    simp [mwWren, frameOut_dev, hfail, MemDevice.hears, MemDevice.failed, hw]

/-- Settles O27: MW_STATE is at rest before and after, and a ready device keeps all but its latch. -/
theorem mwWrenSendsOneFrame : Obligations.MwWrenSendsOneFrame := by
  intro s hidle
  obtain ⟨-, hrest, -⟩ := of_not_busy s hidle
  refine ⟨mwWren .idle s, exec_idle hidle .mwWren, ?_, mwWren_dev_of_ready .idle, fun hw h0 => ?_⟩
  · rw [hrest, mwWren_programs]
    exact mwWren_frame .idle s
  · rw [mwWren_dev_ready .idle hw h0]

/-! ## The two checks -/

theorem inRange_eq_false_iff (p : Params) (a : StorageAddr) (n : Nat) :
    inRange p a n = false ↔ n = 0 ∨ p.capacity < a.toNat + n := by
  simp only [inRange, Bool.and_eq_false_iff, decide_eq_false_iff_not]
  omega

theorem inPage_eq_false_iff (p : Params) (a : StorageAddr) (n : Nat) :
    inPage p a n = false ↔ p.pageSize < a.toNat % p.pageSize + n := by
  simp [inPage]

/-- Settles O28: each refusal is its cause raised and nothing more; past both checks the write-enable frame comes first,
and what follows only appends to the trace. -/
theorem pageWriteChecksBeforeTheBus : Obligations.PageWriteChecksBeforeTheBus := by
  intro s a len d hidle
  have hexec := exec_idle hidle (.mwPageWrite a len d)
  simp only [← inRange_eq_false_iff, ← inPage_eq_false_iff, Bool.not_eq_false]
  refine ⟨fun hr => ?_, fun hr hp => ?_, fun hr hp => ?_⟩
  · simp [hexec, effect, pageWrite, hr, raise, report, log]
  · simp [hexec, effect, pageWrite, hr, hp, raise, report, log]
  · have hwrite : effect (.mwPageWrite a len d) s =
        waitRdy (frameOut (programBytes a (d.take len)) .mwProgramTx (mwWren .program s)) := by
      simp [effect, pageWrite, hr, hp]
    obtain ⟨es, htrace⟩ := ((frameOut_continues (programBytes a (d.take len)) .mwProgramTx (mwWren .program s)).trans
      (waitRdy_continues _)).trace
    refine ⟨_, failureReport (s.result 0) .mwWrenTx ++ [.des] ++ es, hexec, ?_⟩
    rw [hwrite, ← htrace, mwWren_frame]
    simp [opWren]

/-! ## An accepted write -/

/-- ERR after the write-enable frame and the program frame. -/
theorem wrenThenProgram_err (tx : List Byte) (s : State) :
    (frameOut tx .mwProgramTx (mwWren .program s)).err = busFail (bothOk (s.result 0) (s.result 1)) s.err := by
  have h1 : (mwWren .program s).result 0 = s.result 1 := result_shift s _ 1 0 (by simp) (by simp [mwWren])
  have he : (mwWren .program s).err = busFail (s.result 0) s.err := by rw [mwWren_frame]
  rw [frameOut_err, h1, he, busFail_busFail]

/-- Settles O29: the two frames stand in the trace with silent events after them, BUS_FAIL once set stays set through the
poll, and no engine but the write engine is at work. -/
theorem pageWriteSendsEnableThenProgram : Obligations.PageWriteSendsEnableThenProgram := by
  intro s a len d hidle hlen hrange hpage hd
  have hr : inRange s.cfg a len = true := by simp [inRange, hlen, hrange]
  have hp : inPage s.cfg a len = true := by simp [inPage, hpage]
  obtain ⟨es, htrace, hsilent⟩ := pageWrite_trace a len d s hr hp hd
  refine ⟨pageWrite a len d s, es, exec_idle hidle _, ?_, hsilent.commands, fun hfail => ?_,
    pageWrite_err a len d s hr hp hd⟩
  · ext1
    case trace => exact htrace
    all_goals simp
  · rw [pageWrite_accepted a len d s hr hp hd]
    refine waitRdy_blind.keeps_bit ?_
    rw [wrenThenProgram_err, hfail]
    simp [busFail]

/-- Settles O30: after the two frames the bytes are pending, and the one status read that follows commits them. -/
theorem pageWriteCompletes : Obligations.PageWriteCompletes := by
  intro s a len d hidle hlegal hlen hrange hpage hd hw hpend hwf hok hcycle
  have hr : inRange s.cfg a len = true := by simp [inRange, hlen, hrange]
  have hp : inPage s.cfg a len = true := by simp [inPage, hpage]
  let q := (programmed a d s).waiting
  have hwrite : effect (.mwPageWrite a len d) s = pollPass q := by
    rw [← waitRdy_eq, ← frames_programmed a len d s hr hp hd hw (hok 0 (by omega)) (hok 1 (by omega))]
    exact pageWrite_accepted a len d s hr hp hd
  have hx : pollExhausted q = false := waiting_not_exhausted hlegal
  have hres : frameInResult q = .ok := (bothOk_eq_ok _ _).mpr ⟨hok 2 (by omega), hok 3 (by omega)⟩
  obtain ⟨hbyte, hwip, hmw, hdev⟩ := pollPass_observes hx hres
  rw [statusRead_commits rfl hcycle] at hdev
  have hready : (pollPass q).dev.wip = false := by rw [hdev]; rfl
  have hframe := pollPass_frame hx
  obtain ⟨-, hrest, -⟩ := of_not_busy s hidle
  refine ⟨pollPass q, hwrite ▸ exec_idle hidle _, ?_, by rw [hbyte, hwip, hready], ?_, fun x => ?_⟩
  · rw [hmw, hready, if_neg Bool.false_ne_true, hres, statusFrame_ok hres, ← hbyte] at hframe
    refine hframe.trans ?_
    ext1
    case trace => simp [q, State.waiting, programmed, programBytes, opWren, opWrite, opRdsr]
    all_goals simp [q, State.waiting, programmed, hrest, busFail]
  · rw [hdev]
    simp [q, State.waiting, programmed, MemDevice.commit, hcycle, hpend, hw]
  · have hmem : (pollPass q).dev.mem = Memory.writeCells (placeBytes s.cfg a.toNat 0 d []) s.dev.mem := by
      rw [hdev, ← hpend]; rfl
    rw [hmem]
    exact read_written s.cfg a len d s.dev.mem x hp hd hwf

end Sys2Proof.Machine
end

section
/-! SUPPORT. MR.READ (42_memory_read_engine R160 to R162, R164) on a ready device, on a busy one and with a failure. -/

namespace Sys2Proof.Machine

/-! ## The read frame -/

theorem inRange_ne_zero {p : Params} {a : StorageAddr} {n : Nat} (hr : inRange p a n = true) : n ≠ 0 := by
  rintro rfl
  simp [inRange] at hr

/-- The events of the coming read frame of n bytes from a on (30_encoding R102; 60_exceptions R198). -/
def State.readFrame (s : State) (a : StorageAddr) (n : Nat) : List Event :=
  [.sel, .tx (readBytes a) (s.result 0)] ++ failureReport (s.result 0) .mrReadTx ++
    [.rx n (s.result 1) (frameInBytes (readBytes a) n s)] ++ failureReport (s.result 1) .mrReadRx ++ [.des]

theorem readFrame_ok {s : State} (a : StorageAddr) (n : Nat) (hres : frameInResult s = .ok) :
    s.readFrame a n = [.sel, .tx (readBytes a) .ok, .rx n .ok (frameInBytes (readBytes a) n s), .des] := by
  obtain ⟨h0, h1⟩ := (bothOk_eq_ok _ _).mp hres
  simp [State.readFrame, h0, h1, failureReport]

/-- Whatever the bus answers, the frame begins with the select and its transmit. -/
theorem readFrame_begins (s : State) (a : StorageAddr) (n : Nat) :
    [.sel, .tx (readBytes a) (s.result 0)] <+: s.readFrame a n := by
  simp only [State.readFrame, List.append_assoc]
  exact List.prefix_append _ _

theorem frameInBytes_read_ok {s : State} {n : Nat} (a : StorageAddr) (hn : n ≠ 0) (hres : frameInResult s = .ok) :
    frameInBytes (readBytes a) n s = s.dev.answer s.cfg s.draws (.read a n) := by
  simp only [frameInBytes, hres, parse_read a n hn]

/-- A read frame clocks in n bytes, whatever the bus answers. -/
theorem frameInBytes_read_length {n : Nat} (a : StorageAddr) (s : State) (hn : n ≠ 0) :
    (frameInBytes (readBytes a) n s).length = n := by
  cases hres : frameInResult s with
  | ok => rw [frameInBytes_read_ok a hn hres, answer_read_length]
  | failed => simp [frameInBytes, hres]

/-! ## MR.READ past its check -/

/-- MR.READ past its check is its read frame, then RDATA (R160). MR_STATE plays no part in the frame's answers. -/
theorem memoryRead_accepted {s : State} {a : StorageAddr} {n : Nat} (hr : inRange s.cfg a n = true) :
    memoryRead a n s =
      { takeData (frameInResult s) (frameInBytes (readBytes a) n s) n
          (frameIn (readBytes a) n .mrReadTx .mrReadRx { s with mrState := .read }) with mrState := .idle } := by
  simp only [memoryRead, hr, Bool.not_true, Bool.false_eq_true, if_false]
  rfl

theorem memoryRead_dev {s : State} {a : StorageAddr} {n : Nat} (hr : inRange s.cfg a n = true) :
    (memoryRead a n s).dev =
      { s.dev.hears s.cfg s.draws (s.cycle 0) (frameInResult s) (.read a n) with selected := false } := by
  simp only [memoryRead_accepted hr, takeData_dev, frameIn_dev, parse_read a n (inRange_ne_zero hr)]
  rfl

/-- MR.READ past its check in full but for RDATA and what the device becomes (R160, R164). -/
theorem memoryRead_frame {s : State} {a : StorageAddr} {n : Nat} (hrest : s.mrState = .idle)
    (hr : inRange s.cfg a n = true) :
    memoryRead a n s = { s with
      rdata := (memoryRead a n s).rdata, err := busFail (frameInResult s) s.err, dev := (memoryRead a n s).dev
      busCalls := s.busCalls + 2, draws := (memoryRead a n s).draws, trace := s.trace ++ s.readFrame a n } := by
  ext1
  case err => simp only [memoryRead_accepted hr, takeData_err, frameIn_err]; rfl
  case trace => simp only [memoryRead_accepted hr, takeData_trace, frameIn_trace]; rfl
  case mrState => rw [memoryRead_accepted hr, hrest]
  case busCalls => simp [memoryRead_accepted hr]
  case programs =>
    simp [memoryRead_accepted hr, frameIn_programs, parse_read a n (inRange_ne_zero hr), MemDevice.starts]
  all_goals simp

/-- With both primitives `Ok` RDATA takes the bytes received (R160). -/
theorem memoryRead_rdata_ok {s : State} {a : StorageAddr} {n : Nat} (hr : inRange s.cfg a n = true)
    (hres : frameInResult s = .ok) : (memoryRead a n s).rdata = frameInBytes (readBytes a) n s := by
  rw [memoryRead_accepted hr, hres]
  rfl

/-- RDATA takes n bytes, received or drawn (R160, R164). -/
theorem memoryRead_rdata_length {s : State} {a : StorageAddr} {n : Nat} (hr : inRange s.cfg a n = true) :
    (memoryRead a n s).rdata.length = n := by
  cases hres : frameInResult s with
  | ok => rw [memoryRead_rdata_ok hr hres, frameInBytes_read_length a s (inRange_ne_zero hr)]
  | failed => simp [memoryRead_accepted hr, hres, takeData]

/-- With both primitives `Ok` the events are those of the frame's format, with RDATA's bytes received, and ERR stays. -/
theorem memoryRead_frame_ok {s : State} {a : StorageAddr} {n : Nat} (hrest : s.mrState = .idle)
    (hr : inRange s.cfg a n = true) (hres : frameInResult s = .ok) :
    memoryRead a n s = { s with
      rdata := (memoryRead a n s).rdata, dev := (memoryRead a n s).dev, busCalls := s.busCalls + 2
      draws := (memoryRead a n s).draws
      trace := s.trace ++ [.sel, .tx (readBytes a) .ok, .rx n .ok (memoryRead a n s).rdata, .des] } := by
  have hframe := memoryRead_frame hrest hr
  rwa [hres, readFrame_ok a n hres, ← memoryRead_rdata_ok hr hres] at hframe

/-- A ready device is left as it is by a complete read, and any device by a failed one (20_memory R70, R77). -/
theorem memoryRead_dev_kept {s : State} {a : StorageAddr} {n : Nat} (hr : inRange s.cfg a n = true)
    (hkept : s.dev.wip = false ∨ frameInResult s = .failed) :
    (memoryRead a n s).dev = { s.dev with selected := false } := by
  rw [memoryRead_dev hr]
  cases hres : frameInResult s with
  | failed => rfl
  | ok =>
    have hw : s.dev.wip = false := by simpa [hres] using hkept
    simp only [MemDevice.hears, complete_read_ready _ _ _ _ _ hw]

/-- A complete read of a busy device disturbs it at the addressed page (20_memory R76). -/
theorem memoryRead_dev_busy {s : State} {a : StorageAddr} {n : Nat} (hr : inRange s.cfg a n = true)
    (hw : s.dev.wip = true) (hres : frameInResult s = .ok) :
    (memoryRead a n s).dev =
      { s.dev.disturbed s.cfg s.draws (touched s.cfg a.toNat) with selected := false } := by
  simp only [memoryRead_dev hr, hres, MemDevice.hears, complete_read_busy _ _ _ _ _ hw]

theorem frameInResult_ok {s : State} (hok : s.okFor 2) : frameInResult s = .ok :=
  (bothOk_eq_ok _ _).mpr ⟨hok 0 (by omega), hok 1 (by omega)⟩

/-! ## The four statements -/

/-- Settles O38: the refusal is its cause raised and nothing more; past the check the trace goes on with the read frame. -/
theorem mrReadChecksBeforeTheBus : Obligations.MrReadChecksBeforeTheBus := by
  intro s a len hidle
  obtain ⟨-, -, hrest, -⟩ := of_not_busy s hidle
  have hexec := exec_idle hidle (.mrRead a len)
  simp only [← inRange_eq_false_iff, Bool.not_eq_false]
  refine ⟨fun hr => ?_, fun hr => ?_⟩
  · simp [hexec, effect, memoryRead, hr, raise, report, log]
  · obtain ⟨es, hbegins⟩ := readFrame_begins s a len
    refine ⟨_, es, hexec, ?_⟩
    rw [effect, memoryRead_frame hrest hr, ← hbegins, ← List.append_assoc]
    rfl

/-- Settles O39: a ready device answers with MEM's bytes, which RDATA takes, and stays as it is. -/
theorem mrReadReturnsMemory : Obligations.MrReadReturnsMemory := by
  intro s a len hidle hlen hrange hw hok
  obtain ⟨-, -, hrest, -⟩ := of_not_busy s hidle
  have hr : inRange s.cfg a len = true := by simp [inRange, hlen, hrange]
  refine ⟨memoryRead a len s, exec_idle hidle _, ?_, memoryRead_rdata_length hr, fun k hk => ?_⟩
  · rw [← memoryRead_dev_kept hr (.inl hw)]
    exact memoryRead_frame_ok hrest hr (frameInResult_ok hok)
  · rw [memoryRead_rdata_ready hr hw hok]
    exact readMany_getElem? _ hk

/-- Settles O40: the frame is sent whole with each report in its place, and a failed read leaves the device as it is. -/
theorem mrReadFailureSkipsNothing : Obligations.MrReadFailureSkipsNothing := by
  intro s a len hidle hlen hrange hres
  obtain ⟨-, -, hrest, -⟩ := of_not_busy s hidle
  have hr : inRange s.cfg a len = true := by simp [inRange, hlen, hrange]
  have hfail : frameInResult s = .failed := hres
  refine ⟨memoryRead a len s, frameInBytes (readBytes a) len s, exec_idle hidle _, ?_, memoryRead_rdata_length hr,
    frameInBytes_read_length a s (inRange_ne_zero hr)⟩
  have hframe := memoryRead_frame hrest hr
  rwa [hfail, memoryRead_dev_kept hr (.inr hfail)] at hframe

/-- Settles O59: the frame disturbs the device at the addresses it touches, which lie in the page of the first address. -/
theorem mrReadWhileProgramInFlight : Obligations.MrReadWhileProgramInFlight := by
  intro s a len hidle hlen hrange hw hwf hok
  obtain ⟨-, -, hrest, -⟩ := of_not_busy s hidle
  have hr : inRange s.cfg a len = true := by simp [inRange, hlen, hrange]
  have hres := frameInResult_ok hok
  have hdev := memoryRead_dev_busy hr hw hres
  refine ⟨memoryRead a len s, exec_idle hidle _, memoryRead_frame_ok hrest hr hres, memoryRead_rdata_length hr, ?_,
    fun x hx => ?_⟩
  · rw [hdev]
    rfl
  · rw [hdev]
    exact disturbed_read s.cfg s.draws hwf (not_touched_of_other_page (by omega) hx)

end Sys2Proof.Machine
end

section
/-! SUPPORT. What an instruction leaves of the bus it does not use, and of the orchestrator's registers
(43_logging_orchestrator R178, R184); the orchestrator's moves other than the write of a slot (R171). -/

namespace Sys2Proof.Machine

/-! ## One owner per bus -/

theorem effect_loState {i : Instr} (hi : i ≠ .loRun) (s : State) : (effect i s).loState = s.loState := by
  cases i <;> simp [effect] at hi ⊢

theorem effect_done {i : Instr} (hi : i ≠ .loRun) (s : State) : (effect i s).done = s.done := by
  cases i <;> simp [effect] at hi ⊢

/-- Settles O55: each instruction is its effect, and the effect is one operation, whose fields the laws list. -/
theorem eachBusHasOneOwner : Obligations.EachBusHasOneOwner := by
  intro s t i h
  obtain ⟨-, rfl⟩ := exec_next h
  refine ⟨?_, ?_, fun hi => ⟨effect_done hi s, effect_loState hi s, effect_logAddr i s⟩⟩
  · cases i <;> simp [effect]
  · cases i <;> simp [effect]

/-! ## LO.RUN at rest -/

/-- In LO_IDLE LO.RUN drives the indicator to 0 and enters LO_RESETTING (R170, R171). -/
theorem loStart_idle {s : State} (hl : s.loState = .idle) :
    loStart s = { s with done := false, loState := .resetting, trace := s.trace ++ [.ind false] } := by
  simp [loStart, hl, setDone, log]

/-- In LO_DONE LO.RUN is refused (R178). -/
theorem loStart_done {s : State} (hl : s.loState = .done) :
    loStart s = { s with
      err := s.err ||| 0b10000#5, trace := s.trace ++ [.rpt (.cause .commandRefused) .cmdCheck] } := by
  simp [loStart, hl, raise, report, log]

theorem Ordinary.loState_done {f : State → State} (hf : Ordinary f) {s : State} (hl : s.loState = .done) :
    (f s).loState = .done := by
  cases hf with
  | instr i =>
    by_cases hi : i = .loRun
    · subst hi
      simpa [effect, loStart_done hl] using hl
    · rw [effect_loState hi, hl]
  | unlistedFrame tx n => simpa using hl
  | unlistedWrite a8 bytes => simpa using hl
  | unlistedRead a8 n => simpa using hl

theorem busy_of_polling {s : State} (h : s.polling = true) : s.busy = true := by
  simp [State.busy, polling_mwState h]

/-- At rest in LO_DONE a step waits or serves a request, and none but the hardware reset leaves LO_DONE (R178). -/
theorem step_keeps_done {s t : State} (hidle : s.busy = false) (hl : s.loState = .done) (hreset : s.resetNext = false)
    (h : step s = .next t) : t.loState = .done := by
  rcases step_next h with ⟨hpoll, -⟩ | ⟨hbusy, -⟩ | ⟨-, -, rfl⟩ | ⟨r, rest, -, hq, hserve⟩
  · simp [busy_of_polling hpoll] at hidle
  · simp [hbusy] at hidle
  · exact hl
  · obtain ⟨f, hf, -, rfl, -⟩ := serve_ordinary (State.resetNext_eq_false hidle hq hreset) hserve
    exact hf.loState_done hl

/-- Settles O42: LO.RUN by the state it is issued in, LO_DONE by what a step can be, the others by completion. -/
theorem loRunAcceptedOnlyInIdle : Obligations.LoRunAcceptedOnlyInIdle := by
  intro s hidle
  obtain ⟨-, -, -, hlo⟩ := of_not_busy s hidle
  refine ⟨fun hl => ?_, fun hl => ?_, hlo, fun hl hreset t => step_keeps_done hidle hl hreset,
    fun i _ => ⟨_, exec_idle hidle i⟩⟩
  · rw [exec_idle hidle .loRun, effect, loStart_idle hl]
  · rw [exec_idle hidle .loRun, effect, loStart_done hl]

/-! ## The moves of the orchestrator -/

theorem scReset_err (s : State) : (scReset s).err = busFail (s.result 0) s.err := by rw [scReset_frame]

theorem scConfig_err (s : State) : (scConfig s).err = busFail (s.result 0) s.err := by rw [scConfig_frame]

/-- A running orchestrator with the three engines at rest makes its next move. -/
theorem step_moves {s : State} (hrun : s.loState.running = true) (hsc : s.scState = .idle) (hmw : s.mwState = .idle)
    (hmr : s.mrState = .idle) : step s = .next (loStep s) :=
  step_orchestrates (by simp [State.busy, hrun]) hsc hmw hmr

/-- Settles O43: each move is the SC operation of its state, or the pacing delay, and then the orchestrator's registers. -/
theorem orchestratorSequence : Obligations.OrchestratorSequence := by
  intro s hsc hmw hmr
  have hstep (hrun : s.loState.running = true) : step s = .next (loStep s) := step_moves hrun hsc hmw hmr
  refine ⟨fun hl => ⟨loResetting s, ?_, ?_⟩, fun hl => ⟨loConfiguring s, ?_, ?_⟩,
    fun hl => ⟨loAcquire s, ?_, ?_, scRead_sample⟩, fun hl => ?_⟩
  · rw [hstep (by rw [hl]; rfl), loStep, hl]
  · exact congrArg (fun u => { u with loState := .configuring }) (scReset_frame s)
  · rw [hstep (by rw [hl]; rfl), loStep, hl]
  · exact congrArg (fun u => { u with loState := .acquire, logAddr := 0#16 }) (scConfig_frame s)
  · rw [hstep (by rw [hl]; rfl), loStep, hl]
  · have hframe := scRead_frame s
    rw [← hsc] at hframe
    exact congrArg (fun u => { u with loState := .persist }) hframe
  · rw [hstep (by rw [hl]; rfl), loStep, hl]
    rfl

end Sys2Proof.Machine
end

section
/-! SUPPORT. LO_PERSIST: what its steps send and where it leads, and the checks a slot's write passes
(43_logging_orchestrator R171, R173, R174, R179). -/

namespace Sys2Proof.Machine

/-! ## Leaving LO_PERSIST -/

theorem afterPersist_poll {s : State} (hmw : s.mwState = .poll) : afterPersist s = s :=
  afterPersist_active s (by simp [hmw])

/-- Where LO_PERSIST leads (R171, R173, R174): polling it stays; the write having returned, it is LO_PACE while slots remain,
else LO_DONE with SetDone(1) as the last event. -/
theorem afterPersist_leads {s : State} (hl : s.loState = .persist) (hmw : s.mwState = .poll ∨ s.mwState = .idle) :
    (afterPersist s).mwState = .poll ∧ (afterPersist s).loState = .persist ∧ (afterPersist s).done = s.done ∨
      (afterPersist s).mwState = .idle ∧ s.logAddr.toNat + 2 < s.cfg.capacity ∧ (afterPersist s).loState = .pace ∧
        (afterPersist s).done = s.done ∨
      (afterPersist s).mwState = .idle ∧ s.cfg.capacity ≤ s.logAddr.toNat + 2 ∧ (afterPersist s).loState = .done ∧
        (afterPersist s).done = true ∧ (afterPersist s).trace.getLast? = some (.ind true) := by
  rcases hmw with hmw | hmw
  · rw [afterPersist_poll hmw]
    exact .inl ⟨hmw, hl, rfl⟩
  · cases hmore : moreSlots s.cfg s.logAddr with
    | true =>
      rw [afterPersist_pace s hl hmw hmore]
      exact .inr (.inl ⟨hmw, by simpa [moreSlots] using hmore, rfl, rfl⟩)
    | false =>
      rw [afterPersist_done s hl hmw hmore]
      exact .inr (.inr ⟨hmw, by simpa [moreSlots] using hmore, rfl, rfl, List.getLast?_concat⟩)

/-- Leaving LO_PERSIST transmits nothing on the memory bus. -/
theorem afterPersist_trace_commands (s : State) :
    ∃ es, (afterPersist s).trace = s.trace ++ es ∧ ∀ e ∈ es, e.transmitsCommand = false := by
  unfold afterPersist
  split_ifs
  · exact ⟨[], by simp⟩
  · exact ⟨[.ind true], by simp [Event.transmitsCommand]⟩
  · exact ⟨[], by simp⟩

/-! ## The steps of LO_PERSIST -/

/-- What begins the write of a slot: the bytes of the last sample go to LOG_ADDR (R170, 30_encoding R106). -/
def slotWrite (s : State) : State := pageWrite s.logAddr 2 [s.sampleHi, s.sampleLo] s

theorem slotWrite_mwState {s : State} (hmw : s.mwState = .idle) :
    (slotWrite s).mwState = .poll ∨ (slotWrite s).mwState = .idle := by
  rcases pageWrite_mwState s.logAddr 2 [s.sampleHi, s.sampleLo] s with h | h | h
  · exact .inl h
  · exact .inr h
  · exact .inr (h.trans hmw)

/-- A step in LO_PERSIST with the write engine at rest begins the write of a slot. -/
theorem step_begins_write {s : State} (hl : s.loState = .persist) (hsc : s.scState = .idle) (hmw : s.mwState = .idle)
    (hmr : s.mrState = .idle) : step s = .next (afterPersist (slotWrite s)) := by
  rw [step_moves (by rw [hl]; rfl) hsc hmw hmr, loStep, hl]
  rfl

/-! ## The checks of a slot's write -/

/-- An even address of a legal device, whose page has an even size, stands at least two bytes before its page's end. -/
theorem slot_in_page {p : Params} {a : StorageAddr} (hp : p.legal = true) (heven : a.toNat % 2 = 0) :
    a.toNat % p.pageSize + 2 ≤ p.pageSize := by
  have hsize := legal_pageSize p hp
  have hpage := legal_pageSize_even p hp
  have hlt : a.toNat % p.pageSize < p.pageSize := Nat.mod_lt _ (by omega)
  have hoff : a.toNat % p.pageSize % 2 = 0 := by rwa [Nat.mod_mod_of_dvd _ (Nat.dvd_of_mod_eq_zero hpage)]
  omega

theorem slot_inPage {p : Params} {a : StorageAddr} (hp : p.legal = true) (heven : a.toNat % 2 = 0) :
    inPage p a 2 = true := by
  simpa [inPage] using slot_in_page hp heven

theorem slot_inRange {p : Params} {a : StorageAddr} (hrange : a.toNat + 2 ≤ p.capacity) : inRange p a 2 = true := by
  simpa [inRange] using hrange

/-- Settles O44: the step is a pass of the poll or begins the write, and then LO_PERSIST leads where the write engine says;
a slot's write passes both checks, so it sends its two frames. -/
theorem persistLeadsToPaceOrDone : Obligations.PersistLeadsToPaceOrDone := by
  intro s hsc hmr hmw hl
  rcases hmw with hmw | hmw
  · obtain ⟨es, htrace⟩ := (pageWrite_continues s.logAddr 2 [s.sampleHi, s.sampleLo] s).trace
    obtain ⟨es', htrace', hes'⟩ := afterPersist_trace_commands (slotWrite s)
    refine ⟨_, es ++ es', step_begins_write hl hsc hmw hmr, ?_, ?_, by simp [hmw], fun _ hlegal heven hrange => ?_⟩
    · ext1
      case trace => rw [htrace', slotWrite, ← htrace, List.append_assoc]
      all_goals simp [slotWrite]
    · simpa [slotWrite] using afterPersist_leads (s := slotWrite s) (by simpa [slotWrite]) (slotWrite_mwState hmw)
    · have hr := slot_inRange hrange
      have hp := slot_inPage hlegal heven
      obtain ⟨rest, hframes, hsilent⟩ := pageWrite_trace s.logAddr 2 [s.sampleHi, s.sampleLo] s hr hp rfl
      rw [← htrace, List.append_cancel_left_eq] at hframes
      refine ⟨rest ++ es', by simp [hframes, programBytes, opWrite], fun e he => ?_, ?_⟩
      · exact (List.mem_append.mp he).elim (hsilent.commands e) (hes' e)
      · rw [afterPersist_err]
        exact pageWrite_err s.logAddr 2 [s.sampleHi, s.sampleLo] s hr hp rfl hlegal
  · have hpoll : s.polling = true := by simp [State.polling, hsc, hmr, hmw]
    obtain ⟨es, htrace, hsilent⟩ := pollPass_trace s
    obtain ⟨es', htrace', hes'⟩ := afterPersist_trace_commands (pollPass s)
    refine ⟨_, es ++ es', step_polling s hpoll, ?_, ?_, fun _ e he => ?_, by simp [hmw]⟩
    · ext1
      case trace => rw [htrace', htrace, List.append_assoc]
      all_goals simp
    · simpa using afterPersist_leads (s := pollPass s) (by simpa) (hmw ▸ pollPass_mwState s)
    · exact (List.mem_append.mp he).elim (hsilent.commands e) (hes' e)

/-! ## The bits of ERR that a running orchestrator leaves -/

/-- BOUNDARY_HAZARD and CMD_REFUSED (10_state R33). -/
def checkBits (e : BitVec 5) : Bool × Bool := (e.getLsbD 2, e.getLsbD 4)

@[simp] theorem busFail_checkBits (r : BusResult) (e : BitVec 5) : checkBits (busFail r e) = checkBits e := by
  cases r <;> simp [busFail, checkBits]

@[simp] theorem degradedErr_checkBits (r : BusResult) (e : BitVec 5) : checkBits (degradedErr r e) = checkBits e := by
  cases r <;> simp [degradedErr, checkBits]

theorem pollPass_checkBits (s : State) : checkBits (pollPass s).err = checkBits s.err := by
  cases hx : pollExhausted s with
  | true =>
    rw [pollPass_exhausted s hx]
    simp [checkBits]
  | false => rw [pollPass_err s hx, busFail_checkBits]

/-- No move of the orchestrator refuses anything: the write of a slot passes both checks (R179). -/
theorem loStep_checkBits {s : State} (h : Inv s) : checkBits (loStep s).err = checkBits s.err := by
  unfold loStep
  split
  case h_1 | h_7 => rfl
  case h_2 => simp [loResetting, scReset_err]
  case h_3 => simp [loConfiguring, scConfig_err]
  case h_4 => simp [loAcquire, scRead_err]
  case h_5 =>
    rw [loPersist, afterPersist_err, pageWrite_err s.logAddr 2 _ s (slot_inRange h.addrRange)
      (slot_inPage h.legal h.addrEven) rfl h.legal, busFail_checkBits]
  case h_6 => rfl

theorem step_checkBits {s t : State} (h : Inv s) (hrun : s.loState.running = true) (hstep : step s = .next t) :
    checkBits t.err = checkBits s.err := by
  have hbusy : s.busy = true := by simp [State.busy, hrun]
  rcases step_next hstep with ⟨-, rfl⟩ | ⟨-, -, -, -, rfl⟩ | ⟨hidle, -⟩ | ⟨-, -, hidle, -⟩
  · rw [afterPersist_err, pollPass_checkBits]
  · exact loStep_checkBits h
  · simp [hbusy] at hidle
  · simp [hbusy] at hidle

/-- Settles O45: the arithmetic of an even slot in a page of even size, and the moves of a running orchestrator one by
one. -/
theorem slotWritesPassBothChecks : Obligations.SlotWritesPassBothChecks := by
  refine ⟨fun p a hp heven hrange => ?_, fun s t h hrun hstep => ?_⟩
  · have hin := slot_in_page hp heven
    exact ⟨by omega, hin, slot_inRange hrange, slot_inPage hp heven⟩
  · have hbits := step_checkBits h hrun hstep
    simp only [checkBits, Prod.mk.injEq] at hbits
    exact ⟨h.addrEven, h.addrRange, hbits⟩

end Sys2Proof.Machine
end

section
/-! SUPPORT. A run of LO.RUN as phases: what each phase is, what has been sent when it is reached, and that every step leads
from one phase to the next or is a pass of the poll that goes on (43_logging_orchestrator R170, R171, R173, R174). -/

namespace Sys2Proof.Machine

/-! ## Phases and what has been sent in them -/

/-- Where a run of LO.RUN stands between two steps; n counts the slots behind it. -/
inductive Phase where
  | resetting
  | configuring
  /-- In LO_ACQUIRE. -/
  | acquiring (n : Nat)
  /-- In LO_PERSIST with the write not begun; d is the sample to persist. -/
  | persisting (n : Nat) (d : Byte × Byte)
  /-- In LO_PERSIST, polling. -/
  | writing (n : Nat)
  | pacing (n : Nat)
  | done

/-- How far a phase is from the end, for a device of c bytes. -/
def Phase.rank (c : Nat) : Phase → Nat
  | .resetting => 4 * c + 5
  | .configuring => 4 * c + 4
  | .acquiring n => 4 * (c - n) + 3
  | .persisting n _ => 4 * (c - n) + 2
  | .writing n => 4 * (c - n) + 1
  | .pacing n => 4 * (c - n)
  | .done => 0

/-- What SC.READ sends when the temperature read returns r (40_sensor_controller R122). -/
def readActions (p : Params) (r : BusResult) : List Action :=
  [.sensorWrite p.sa8 [0x01#8, p.cfgBase ||| p.sdMask ||| p.osMask], .pause p.convDelayMs, .sensorWrite p.sa8 [0x00#8],
    .sensorRead p.sa8 2 r]

/-- What the write of slot n sends but its status frames (41_memory_write_engine R141). -/
def writeActions (n : Nat) (d : Byte × Byte) : List Action :=
  [.transmit [0x06#8],
    .transmit [0x02#8, addrHi (BitVec.ofNat 16 (2 * n)), addrLo (BitVec.ofNat 16 (2 * n)), d.1, d.2]]

theorem slotActions_eq (p : Params) (n : Nat) (r : BusResult) (d : Byte × Byte) :
    slotActions p n r d =
      readActions p r ++ writeActions n d ++ if 2 * n + 2 < p.capacity then [.pause p.periodMs] else [] := rfl

/-- What a run begun in s has sent when it reaches a phase, move by move. -/
inductive Sent (s : State) : Phase → List Action → Prop
  | started : Sent s .resetting [.indicate false]
  | reset {as : List Action} (h : Sent s .resetting as) :
      Sent s .configuring (as ++ [.sensorWrite s.cfg.broadcastAddr8 [0x06#8]])
  | configured {as : List Action} (h : Sent s .configuring as) :
      Sent s (.acquiring 0) (as ++ [.sensorWrite s.cfg.sa8 [0x01#8, s.cfg.cfgBase ||| s.cfg.sdMask]])
  | read {as : List Action} {n : Nat} {r : BusResult} {d : Byte × Byte} (h : Sent s (.acquiring n) as)
      (hd : r = .ok → d = s.sample n) : Sent s (.persisting n d) (as ++ readActions s.cfg r)
  | wrote {as : List Action} {n : Nat} {d : Byte × Byte} (h : Sent s (.persisting n d) as) :
      Sent s (.writing n) (as ++ writeActions n d)
  | returned {as : List Action} {n : Nat} (h : Sent s (.writing n) as) (hmore : 2 * n + 2 < s.cfg.capacity) :
      Sent s (.pacing n) as
  | paced {as : List Action} {n : Nat} (h : Sent s (.pacing n) as) :
      Sent s (.acquiring (n + 1)) (as ++ [.pause s.cfg.periodMs])
  | ended {as : List Action} {n : Nat} (h : Sent s (.writing n) as) (hlast : 2 * n + 2 = s.cfg.capacity) :
      Sent s .done (as ++ [.indicate true])

/-- What a run has sent once n slots with the results r and the bytes d are behind it. -/
def sentActions (p : Params) (r : Nat → BusResult) (d : Nat → Byte × Byte) (n : Nat) : List Action :=
  [.indicate false, .sensorWrite p.broadcastAddr8 [0x06#8],
    .sensorWrite p.sa8 [0x01#8, p.cfgBase ||| p.sdMask]] ++
  (List.range n).flatMap (fun i => slotActions p i (r i) (d i))

/-- One slot more, with a result and bytes of its own. -/
theorem sentActions_update (p : Params) (r : Nat → BusResult) (d : Nat → Byte × Byte) (n : Nat) (r' : BusResult)
    (d' : Byte × Byte) :
    sentActions p (Function.update r n r') (Function.update d n d') (n + 1) =
      sentActions p r d n ++ slotActions p n r' d' := by
  have hbefore : (List.range n).map (fun i => slotActions p i (Function.update r n r' i) (Function.update d n d' i)) =
      (List.range n).map (fun i => slotActions p i (r i) (d i)) := by
    refine List.map_congr_left fun i hi => ?_
    have hne : i ≠ n := (List.mem_range.mp hi).ne
    rw [Function.update_of_ne hne, Function.update_of_ne hne]
  simp only [sentActions, List.flatMap_def, List.range_succ, List.map_append, List.flatten_append, hbefore]
  simp

/-- The slots behind a run, as one list: with the answer `Ok` the bytes persisted are those read. -/
def SentSlots (s : State) (n : Nat) (as : List Action) : Prop :=
  ∃ (r : Nat → BusResult) (d : Nat → Byte × Byte),
    as = sentActions s.cfg r d n ∧ ∀ i, i < n → r i = .ok → d i = s.sample i

theorem SentSlots.next {s : State} {n : Nat} {as : List Action} {r : BusResult} {d : Byte × Byte}
    (h : SentSlots s n as) (hd : r = .ok → d = s.sample n) : SentSlots s (n + 1) (as ++ slotActions s.cfg n r d) := by
  obtain ⟨rs, ds, rfl, hds⟩ := h
  refine ⟨Function.update rs n r, Function.update ds n d, (sentActions_update s.cfg rs ds n r d).symm,
    fun i hi hok => ?_⟩
  rcases Nat.lt_succ_iff_lt_or_eq.mp hi with hlt | rfl
  · rw [Function.update_of_ne hlt.ne] at hok ⊢
    exact hds i hlt hok
  · rw [Function.update_self] at hok ⊢
    exact hd hok

/-- A write of slot n stands at the end of what was sent, behind n slots and the read of its sample. -/
theorem Sent.slot {s : State} {n : Nat} {as : List Action} (h : Sent s (.writing n) as) :
    ∃ as' r d, Sent s (.acquiring n) as' ∧ (r = .ok → d = s.sample n) ∧
      as = as' ++ (readActions s.cfg r ++ writeActions n d) := by
  cases h with
  | wrote h =>
    cases h with
    | read h hd => exact ⟨_, _, _, h, hd, List.append_assoc _ _ _⟩

theorem Sent.slots {s : State} {n : Nat} {as : List Action} (h : Sent s (.acquiring n) as) : SentSlots s n as := by
  induction n generalizing as with
  | zero =>
    cases h with
    | configured h =>
      cases h with
      | reset h =>
        cases h with
        | started => exact ⟨fun _ => .ok, s.sample, rfl, fun _ _ _ => rfl⟩
  | succ n ih =>
    cases h with
    | paced h =>
      cases h with
      | returned h hmore =>
        obtain ⟨as', r, d, hbefore, hd, rfl⟩ := h.slot
        have hslot := (ih hbefore).next hd
        rw [slotActions_eq, if_pos hmore] at hslot
        simpa using hslot

/-- All slots are behind a run that is complete, and only the last has no pacing delay after it. -/
theorem Sent.complete {s : State} {as : List Action} (h : Sent s .done as) :
    ∃ as', SentSlots s (s.cfg.capacity / 2) as' ∧ as = as' ++ [.indicate true] := by
  cases h with
  | @ended as n h hlast =>
    obtain ⟨as', r, d, hbefore, hd, rfl⟩ := h.slot
    have hslot := hbefore.slots.next hd
    rw [slotActions_eq, if_neg (by omega), List.append_nil] at hslot
    rw [show s.cfg.capacity / 2 = n + 1 by omega]
    exact ⟨_, hslot, rfl⟩

/-! ## The state in each phase -/

/-- The state of a run begun in s that stands in a phase: LO_STATE, LOG_ADDR at the slot, and the temperature reads made. -/
def Phase.at (s u : State) : Phase → Prop
  | .resetting => u.loState = .resetting ∧ u.samples = s.samples
  | .configuring => u.loState = .configuring ∧ u.samples = s.samples
  | .acquiring n => u.loState = .acquire ∧ u.logAddr.toNat = 2 * n ∧ u.samples = s.samples + n
  | .persisting n d => u.loState = .persist ∧ u.mwState = .idle ∧ u.logAddr.toNat = 2 * n ∧
      u.samples = s.samples + (n + 1) ∧ d = (u.sampleHi, u.sampleLo)
  | .writing n => u.loState = .persist ∧ u.mwState = .poll ∧ u.logAddr.toNat = 2 * n ∧ u.samples = s.samples + (n + 1)
  | .pacing n => u.loState = .pace ∧ u.logAddr.toNat = 2 * n ∧ u.samples = s.samples + (n + 1)
  | .done => u.loState = .done ∧ u.mwState = .idle ∧ u.samples = s.samples + s.cfg.capacity / 2 ∧
      u.trace.getLast? = some (.ind true)

/-- A run of LO.RUN begun in s stands in u, in a phase. -/
structure Logging (s u : State) (ph : Phase) : Prop where
  inv : Inv u
  cfg : u.cfg = s.cfg
  script : u.script = s.script
  place : ph.at s u
  trace : ∃ es : List Event, u.trace = s.trace ++ es ∧ es.head? = some (.ind false) ∧
    Sent s ph (es.filterMap Event.action?)

/-- An accepted LO.RUN begins its run in LO_RESETTING. -/
theorem Logging.start {s : State} (hidle : s.busy = false) (h : Inv s) (hl : s.loState = .idle) :
    Logging s (loStart s) .resetting where
  inv := h.effect hidle .loRun
  cfg := (loStart_continues s).cfg
  script := (loStart_continues s).script
  place := by
    rw [loStart_idle hl]
    exact ⟨rfl, rfl⟩
  trace := by
    rw [loStart_idle hl]
    exact ⟨[.ind false], rfl, rfl, .started⟩

/-- A step of the run whose events and next phase are known. -/
theorem Logging.next {s u v : State} {ph ph' : Phase} {es : List Event} (h : Logging s u ph) (hstep : step u = .next v)
    (htrace : v.trace = u.trace ++ es) (hplace : ph'.at s v)
    (hsent : ∀ as, Sent s ph as → Sent s ph' (as ++ es.filterMap Event.action?)) : Logging s v ph' where
  inv := stepKeepsInvariant u v h.inv hstep
  cfg := (step_continues hstep).cfg.trans h.cfg
  script := (step_continues hstep).script.trans h.script
  place := hplace
  trace := by
    obtain ⟨es', hes', hfirst, hsent'⟩ := h.trace
    refine ⟨es' ++ es, by rw [htrace, hes', List.append_assoc], ?_, by rw [List.filterMap_append]; exact hsent _ hsent'⟩
    rw [List.head?_append, hfirst]
    rfl

/-! ## The events of the moves -/

theorem loResetting_trace (s : State) : ∃ es, (loResetting s).trace = s.trace ++ es ∧
    es.filterMap Event.action? = [.sensorWrite s.cfg.broadcastAddr8 [0x06#8]] :=
  ⟨_, congrArg State.trace (scReset_frame s), rfl⟩

theorem loConfiguring_trace (s : State) : ∃ es, (loConfiguring s).trace = s.trace ++ es ∧
    es.filterMap Event.action? = [.sensorWrite s.cfg.sa8 [0x01#8, s.cfg.cfgBase ||| s.cfg.sdMask]] :=
  ⟨_, congrArg State.trace (scConfig_frame s), rfl⟩

theorem loAcquire_trace (s : State) : ∃ es, (loAcquire s).trace = s.trace ++ es ∧
    es.filterMap Event.action? = readActions s.cfg (s.result 2) := by
  refine ⟨_, congrArg State.trace (scRead_frame s), ?_⟩
  simp [Event.action?, readActions, ptrConfig, ptrTemp, Params.cfgOneshot]

/-- The write of slot n sends its two frames whatever the bus answers: the slot passes both checks. -/
theorem slotWrite_trace {s : State} (h : Inv s) {n : Nat} (haddr : s.logAddr.toNat = 2 * n) :
    ∃ es, (slotWrite s).trace = s.trace ++ es ∧
      es.filterMap Event.action? = writeActions n (s.sampleHi, s.sampleLo) := by
  obtain ⟨es, htrace, hsilent⟩ := pageWrite_trace s.logAddr 2 [s.sampleHi, s.sampleLo] s (slot_inRange h.addrRange)
    (slot_inPage h.legal h.addrEven) rfl
  have hslot : BitVec.ofNat 16 (2 * n) = s.logAddr := by rw [← haddr, BitVec.ofNat_toNat, BitVec.setWidth_eq]
  refine ⟨_, htrace, ?_⟩
  simp [List.filterMap_cons, hsilent.actions, Event.action?, writeActions, hslot, programBytes, opWrite]

/-! ## The step of a run -/

/-- One step led from a phase to a later one, or, while a write polls, to the same. -/
def Phase.Leads (c : Nat) (u : State) (ph ph' : Phase) : Prop :=
  ph'.rank c < ph.rank c ∨ ph' = ph ∧ u.polling = true

/-- A write begun for slot n goes on, or has returned and leads to LO_PACE or LO_DONE (R171, R173, R174). -/
theorem afterPersist_phase {s w : State} {n : Nat} (h : Inv w) (hcfg : w.cfg = s.cfg) (hl : w.loState = .persist)
    (hmw : w.mwState = .poll ∨ w.mwState = .idle) (haddr : w.logAddr.toNat = 2 * n)
    (hsamples : w.samples = s.samples + (n + 1)) :
    ∃ ph es, ph.at s (afterPersist w) ∧ (afterPersist w).trace = w.trace ++ es ∧
      (∀ as, Sent s (.writing n) as → Sent s ph (as ++ es.filterMap Event.action?)) ∧
      (ph.rank s.cfg.capacity < (Phase.writing n).rank s.cfg.capacity ∨ ph = .writing n) := by
  rcases hmw with hmw | hmw
  · rw [afterPersist_poll hmw]
    exact ⟨.writing n, [], ⟨hl, hmw, haddr, hsamples⟩, by simp, by simp, .inr rfl⟩
  · cases hmore : moreSlots w.cfg w.logAddr with
    | true =>
      rw [afterPersist_pace w hl hmw hmore]
      simp only [moreSlots, decide_eq_true_eq, haddr, hcfg] at hmore
      exact ⟨.pacing n, [], ⟨rfl, haddr, hsamples⟩, by simp, fun as has => by simpa using has.returned hmore,
        .inl (by simp [Phase.rank])⟩
    | false =>
      have hlast : 2 * n + 2 = s.cfg.capacity := by
        have hrange := h.addrRange
        simp only [moreSlots, decide_eq_false_iff_not, haddr, hcfg] at hmore hrange
        omega
      rw [afterPersist_done w hl hmw hmore]
      exact ⟨.done, [.ind true], ⟨rfl, hmw, by rw [hsamples]; omega, List.getLast?_concat⟩, rfl,
        fun as has => has.ended hlast, .inl (by simp [Phase.rank])⟩

theorem Inv.mwState_cases {s : State} (h : Inv s) : s.mwState = .poll ∨ s.mwState = .idle := by
  have hrest := h.rest
  simp only [State.enginesRest, Bool.and_eq_true, Bool.or_eq_true, beq_iff_eq] at hrest
  exact hrest.2.symm

/-- Outside LO_PERSIST the write engine of a running orchestrator is at rest. -/
theorem Inv.mwState_idle {s : State} (h : Inv s) (hrun : s.loState.running = true) (hl : s.loState ≠ .persist) :
    s.mwState = .idle :=
  h.mwState_cases.resolve_left fun hmw => hl (h.pollOwner hmw hrun)

/-- Outside LO_PERSIST a running orchestrator makes its next move. -/
theorem Inv.step_moves {s : State} (h : Inv s) (hrun : s.loState.running = true) (hl : s.loState ≠ .persist) :
    step s = .next (Machine.loStep s) :=
  Machine.step_moves hrun h.scState_idle (h.mwState_idle hrun hl) h.mrState_idle

theorem Inv.step_resetting {s : State} (h : Inv s) (hl : s.loState = .resetting) : step s = .next (loResetting s) := by
  rw [h.step_moves (by rw [hl]; rfl) (by simp [hl]), Machine.loStep, hl]

theorem Inv.step_configuring {s : State} (h : Inv s) (hl : s.loState = .configuring) :
    step s = .next (loConfiguring s) := by
  rw [h.step_moves (by rw [hl]; rfl) (by simp [hl]), Machine.loStep, hl]

theorem Inv.step_acquire {s : State} (h : Inv s) (hl : s.loState = .acquire) : step s = .next (loAcquire s) := by
  rw [h.step_moves (by rw [hl]; rfl) (by simp [hl]), Machine.loStep, hl]

theorem Inv.step_pace {s : State} (h : Inv s) (hl : s.loState = .pace) : step s = .next (loPace s) := by
  rw [h.step_moves (by rw [hl]; rfl) (by simp [hl]), Machine.loStep, hl]

/-- A step of the run from u, which stands in ph, leads on. -/
def Advances (s u : State) (ph : Phase) : Prop :=
  ∃ v ph', step u = .next v ∧ Logging s v ph' ∧ ph.Leads s.cfg.capacity u ph'

theorem Logging.reset {s u : State} (h : Logging s u .resetting) : Advances s u .resetting := by
  obtain ⟨hl, hsamples⟩ := h.place
  have hstep := h.inv.step_resetting hl
  obtain ⟨es, htrace, hes⟩ := loResetting_trace u
  refine ⟨_, .configuring, hstep, h.next hstep htrace ⟨rfl, by simpa [loResetting]⟩ fun as has => ?_,
    .inl (by simp [Phase.rank])⟩
  rw [hes, h.cfg]
  exact has.reset

theorem Logging.configure {s u : State} (h : Logging s u .configuring) : Advances s u .configuring := by
  obtain ⟨hl, hsamples⟩ := h.place
  have hstep := h.inv.step_configuring hl
  obtain ⟨es, htrace, hes⟩ := loConfiguring_trace u
  refine ⟨_, .acquiring 0, hstep, h.next hstep htrace ⟨rfl, rfl, by simpa [loConfiguring]⟩ fun as has => ?_,
    .inl (by simp [Phase.rank])⟩
  rw [hes, h.cfg]
  exact has.configured

/-- SC.READ makes one temperature read, whose bytes are the sample to persist where it returned `Ok`. -/
theorem Logging.acquire {s u : State} {n : Nat} (h : Logging s u (.acquiring n)) : Advances s u (.acquiring n) := by
  obtain ⟨hl, haddr, hsamples⟩ := h.place
  have hmw := h.inv.mwState_idle (by rw [hl]; rfl) (by simp [hl])
  have hstep := h.inv.step_acquire hl
  have hone : (loAcquire u).samples = s.samples + (n + 1) := by
    rw [loAcquire, scRead_frame, ← Nat.add_assoc, ← hsamples]
  obtain ⟨es, htrace, hes⟩ := loAcquire_trace u
  refine ⟨_, .persisting n ((scRead u).sampleHi, (scRead u).sampleLo), hstep,
    h.next hstep htrace ⟨rfl, by simpa [loAcquire], by simpa [loAcquire], hone, rfl⟩ fun as has => ?_,
    .inl (by simp [Phase.rank])⟩
  rw [hes, h.cfg]
  refine has.read fun hok => ?_
  obtain ⟨hhi, hlo⟩ := scRead_sample hok
  rw [hhi, hlo, sample_shift s u n 0 h.script hsamples, Nat.add_zero]

/-- The write of a slot is begun, and may have returned in the same step. -/
theorem Logging.write {s u : State} {n : Nat} {d : Byte × Byte} (h : Logging s u (.persisting n d)) :
    Advances s u (.persisting n d) := by
  obtain ⟨hl, hmw, haddr, hsamples, rfl⟩ := h.place
  obtain ⟨es, htrace, hes⟩ := slotWrite_trace h.inv haddr
  obtain ⟨ph', es', hplace, htrace', hsent, hrank⟩ := afterPersist_phase (s := s) (w := slotWrite u)
    (h.inv.pageWrite (fun _ => hl) _ _ _) (by simpa [slotWrite] using h.cfg) (by simpa [slotWrite])
    (slotWrite_mwState hmw) (by simpa [slotWrite]) (by simpa [slotWrite])
  have hstep := step_begins_write hl h.inv.scState_idle hmw h.inv.mrState_idle
  have hbegun : (Phase.writing n).rank s.cfg.capacity <
      (Phase.persisting n (u.sampleHi, u.sampleLo)).rank s.cfg.capacity := by simp [Phase.rank]
  refine ⟨_, ph', hstep, h.next (es := es ++ es') hstep (by rw [htrace', htrace, List.append_assoc]) hplace
    fun as has => ?_, .inl ?_⟩
  · rw [List.filterMap_append, hes, ← List.append_assoc]
    exact hsent _ has.wrote
  · rcases hrank with hrank | rfl
    · exact hrank.trans hbegun
    · exact hbegun

/-- A pass of the poll sends nothing that counts, and the poll goes on or the write has returned. -/
theorem Logging.poll {s u : State} {n : Nat} (h : Logging s u (.writing n)) : Advances s u (.writing n) := by
  obtain ⟨hl, hmw, haddr, hsamples⟩ := h.place
  have hpoll : u.polling = true := by simp [State.polling, h.inv.scState_idle, h.inv.mrState_idle, hmw]
  obtain ⟨es, htrace, hsilent⟩ := pollPass_trace u
  obtain ⟨ph', es', hplace, htrace', hsent, hrank⟩ := afterPersist_phase (s := s) (w := pollPass u)
    h.inv.pollPass (by simpa using h.cfg) (by simpa) (hmw ▸ pollPass_mwState u) (by simpa) (by simpa)
  have hstep := step_polling u hpoll
  refine ⟨_, ph', hstep, h.next (es := es ++ es') hstep (by rw [htrace', htrace, List.append_assoc]) hplace
    fun as has => ?_, hrank.imp_right fun hph => ⟨hph, hpoll⟩⟩
  rw [List.filterMap_append, hsilent.actions]
  exact hsent as has

theorem Logging.pace {s u : State} {n : Nat} (h : Logging s u (.pacing n)) : Advances s u (.pacing n) := by
  obtain ⟨hl, haddr, hsamples⟩ := h.place
  have hstep := h.inv.step_pace hl
  have hmore := h.inv.paceRoom hl
  have hadv := logAddr_advance h.inv.legal hmore
  simp only [moreSlots, decide_eq_true_eq, h.cfg] at hmore
  refine ⟨_, .acquiring (n + 1), hstep,
    h.next (es := [.dly u.cfg.periodMs]) hstep rfl ⟨rfl, by simp only [loPace]; omega, hsamples⟩ fun as has => ?_,
    .inl (by simp only [Phase.rank]; omega)⟩
  rw [h.cfg]
  exact has.paced

theorem Logging.not_busy {s u : State} (h : Logging s u .done) : u.busy = false := by
  obtain ⟨hl, hmw, -⟩ := h.place
  simp [State.busy, h.inv.scState_idle, hmw, h.inv.mrState_idle, hl, LoState.running]

/-- Every step of a run but the last leads on. -/
theorem Logging.advances {s u : State} {ph : Phase} (h : Logging s u ph) (hbusy : u.busy = true) : Advances s u ph := by
  cases ph with
  | resetting => exact h.reset
  | configuring => exact h.configure
  | acquiring n => exact h.acquire
  | persisting n d => exact h.write
  | writing n => exact h.poll
  | pacing n => exact h.pace
  | done => simp [h.not_busy] at hbusy

end Sys2Proof.Machine
end

section
/-! SUPPORT. The end of a run of LO.RUN: when it is reached and what holds there (43_logging_orchestrator R172, R175, R176,
R177, R183). -/

namespace Sys2Proof.Machine

/-! ## Runs of busy states -/

/-- One step more at the end of a run. -/
theorem run_snoc {s t u : State} {n : Nat} (hrun : core.run n s = .next t) (hstep : step t = .next u) :
    core.run (n + 1) s = .next u :=
  (run_add n 1 s t hrun).trans (run_succ 0 t u hstep)

/-- The first n states of the run from s, s among them, have BUSY = 1. -/
def State.busyFor (s : State) (n : Nat) : Prop :=
  ∀ (m : Nat) (u : State), m < n → core.run m s = .next u → u.busy = true

theorem State.busyFor.later {s t : State} {m n : Nat} (h : s.busyFor (m + n)) (hrun : core.run m s = .next t) :
    t.busyFor n :=
  fun i u hi hu => h (m + i) u (by omega) ((run_add m i s t hrun).trans hu)

theorem State.busyFor.now {s : State} {n : Nat} (h : s.busyFor (n + 1)) : s.busy = true :=
  h 0 s (Nat.succ_pos n) (run_zero s)

theorem during_iff {s u : State} {m : Nat} : s.during m u ↔ core.run m s = .next u ∧ s.busyFor (m + 1) := by
  simp only [State.during, State.busyFor, Nat.lt_succ_iff]

/-- While BUSY = 1 a run of LO.RUN goes on, and no phase is left for an earlier one. -/
theorem Logging.run {s u : State} {ph : Phase} {n : Nat} (h : Logging s u ph) (hbusy : u.busyFor n) :
    ∃ v ph', core.run n u = .next v ∧ Logging s v ph' ∧ ph'.rank s.cfg.capacity ≤ ph.rank s.cfg.capacity := by
  induction n generalizing u ph with
  | zero => exact ⟨u, ph, run_zero u, h, le_rfl⟩
  | succ n ih =>
    obtain ⟨v, ph', hstep, hv, hleads⟩ := h.advances hbusy.now
    obtain ⟨w, ph'', hrun, hw, hrank⟩ := ih hv ((Nat.add_comm n 1 ▸ hbusy).later (run_snoc (run_zero u) hstep))
    refine ⟨w, ph'', (run_succ n u v hstep).trans hrun, hw, hrank.trans ?_⟩
    rcases hleads with hlt | ⟨rfl, -⟩
    · exact hlt.le
    · exact le_rfl

/-- As `Logging.run`, for a state known to be reached. -/
theorem Logging.reached {s u v : State} {ph : Phase} {n : Nat} (h : Logging s u ph) (hbusy : u.busyFor n)
    (hrun : core.run n u = .next v) :
    ∃ ph', Logging s v ph' ∧ ph'.rank s.cfg.capacity ≤ ph.rank s.cfg.capacity := by
  obtain ⟨w, ph', hrun', hw, hrank⟩ := h.run hbusy
  obtain rfl : v = w := Host.Outcome.next.inj (hrun.symm.trans hrun')
  exact ⟨ph', hw, hrank⟩

/-! ## The end -/

/-- BUSY falls only at the end of the run. -/
theorem Logging.ended {s u : State} {ph : Phase} (h : Logging s u ph) (hidle : u.busy = false) : Logging s u .done := by
  obtain ⟨-, -, -, hlo⟩ := of_not_busy u hidle
  have hplace := h.place
  cases ph
  case done => exact h
  all_goals simp [hplace.1] at hlo

/-- What holds at the end of a run: DONE, the last slot, one temperature read per slot (R172, R177). -/
theorem Logging.at_end {s u : State} (h : Logging s u .done) :
    u.loState = .done ∧ u.done = true ∧ u.busy = false ∧ u.logAddr.toNat + 2 = s.cfg.capacity ∧
      u.samples = s.samples + s.cfg.capacity / 2 := by
  obtain ⟨hl, -, hsamples, -⟩ := h.place
  exact ⟨hl, h.inv.doneMeansDone.mpr hl, h.not_busy, h.cfg ▸ h.inv.lastSlot hl, hsamples⟩

/-- Every polling state of the run from s is followed by one that does not poll. -/
def State.pollsEnd (s : State) : Prop :=
  ∀ (m : Nat) (u : State), s.during m u → u.polling = true → ∃ k v, core.run k u = .next v ∧ v.polling = false

/-- A state reached while every state of the run is busy. -/
theorem State.pollsEnd.later {s u : State} (h : s.pollsEnd) (hbusy : ∀ n, s.busyFor n) {m : Nat}
    (hrun : core.run m s = .next u) : ∃ k v, core.run k u = .next v ∧ v.polling = false := by
  cases hpoll : u.polling with
  | true => exact h m u (during_iff.mpr ⟨hrun, hbusy _⟩) hpoll
  | false => exact ⟨0, u, run_zero u, hpoll⟩

/-- A run whose polls all end does not stay busy for ever: each state is followed by one that does not poll, and the step
from there leads to a later phase. -/
theorem Logging.not_busy_forever {s s1 u : State} {ph : Phase} {m : Nat} (h : Logging s u ph) (hpolls : s1.pollsEnd)
    (hbusy : ∀ n, s1.busyFor n) (hrun : core.run m s1 = .next u) : False := by
  obtain ⟨k, v, hrunv, hpoll⟩ := hpolls.later hbusy hrun
  have hforever {j : Nat} {x : State} (hx : core.run j s1 = .next x) (n : Nat) : x.busyFor n := (hbusy (j + n)).later hx
  obtain ⟨ph', hv, hle⟩ := h.reached (hforever hrun k) hrunv
  have hrunv' : core.run (m + k) s1 = .next v := (run_add m k s1 u hrun).trans hrunv
  obtain ⟨w, ph'', hstep, hw, hleads⟩ := hv.advances (hforever hrunv' 1).now
  have hlt : ph''.rank s.cfg.capacity < ph'.rank s.cfg.capacity := hleads.resolve_right fun hstay => by
    simp [hpoll] at hstay
  have hrunw : core.run (m + k + 1) s1 = .next w := run_snoc hrunv' hstep
  exact hw.not_busy_forever hpolls hbusy hrunw
termination_by ph.rank s.cfg.capacity
decreasing_by exact hlt.trans_le hle

/-- A run whose polls all end comes to its end. -/
theorem Logging.ends {s s1 : State} {ph : Phase} (h : Logging s s1 ph) (hpolls : s1.pollsEnd) :
    ∃ n t, core.run n s1 = .next t ∧ Logging s t .done := by
  by_contra hnever
  have hbusy : ∀ n, s1.busyFor n := by
    intro n
    induction n with
    | zero => exact fun m u hm => absurd hm (Nat.not_lt_zero m)
    | succ n ih =>
      intro m u hm hrun
      rcases Nat.lt_succ_iff_lt_or_eq.mp hm with hlt | rfl
      · exact ih m u hlt hrun
      · obtain ⟨ph', hu, -⟩ := h.reached ih hrun
        by_contra hidle
        exact hnever ⟨m, u, hrun, hu.ended (by simpa using hidle)⟩
  exact h.not_busy_forever hpolls hbusy (run_zero s1)

/-- The run an accepted LO.RUN begins. -/
theorem loRun_starts {s : State} (hidle : s.busy = false) (h : Inv s) (hl : s.loState = .idle) :
    exec .loRun s = .next (loStart s) ∧ Logging s (loStart s) .resetting :=
  ⟨exec_idle hidle .loRun, .start hidle h hl⟩

/-- Under a finite POLL_LIMIT every poll of a run ends. -/
theorem Logging.pollsEnd {s s1 : State} {ph : Phase} {l : Nat} (h : Logging s s1 ph) (hlimit : s.cfg.pollLimit = .fin l) :
    s1.pollsEnd := by
  intro m u hu hpoll
  obtain ⟨hrun, hbusy⟩ := during_iff.mp hu
  obtain ⟨ph', hlog, -⟩ := h.reached (fun i w hi => hbusy i w (by omega)) hrun
  have hlimit' : u.cfg.pollLimit = .fin l := by rw [hlog.cfg, hlimit]
  have hbound := hlog.inv.pollBound
  simp only [pollAdmits, hlimit', decide_eq_true_eq] at hbound
  obtain ⟨k, w, hrunw, hw⟩ := poll_ends (l - u.pollCnt) l u hpoll hlimit' (by omega)
  refine ⟨k, afterPersist w, hrunw, ?_⟩
  have hmw : w.mwState = .idle := by rw [hw]
  simp [State.polling, hmw]

/-- Settles O46: with POLL_LIMIT finite every poll ends, so the run does. -/
theorem loRunAlwaysReachesDone : Obligations.LoRunAlwaysReachesDone := by
  intro s l hidle h hl hlimit
  obtain ⟨hexec, hstart⟩ := loRun_starts hidle h hl
  obtain ⟨n, t, hrun, hend⟩ := hstart.ends (hstart.pollsEnd hlimit)
  exact ⟨_, n, t, hexec, hrun, hend.at_end⟩

/-- Settles O57: a complete run stands in its last phase, where what it has sent is known. -/
theorem completeRunTransmits : Obligations.CompleteRunTransmits := by
  intro s s1 t n hidle h hl hexec hrun hend hbusy
  obtain ⟨hexec', hstart⟩ := loRun_starts hidle h hl
  obtain rfl : s1 = loStart s := Host.Outcome.next.inj (hexec.symm.trans hexec')
  obtain ⟨ph, hlog, -⟩ := hstart.reached hbusy hrun
  have hdone := hlog.ended hend
  obtain ⟨es, htrace, hfirst, hsent⟩ := hdone.trace
  obtain ⟨-, -, -, hlast⟩ := hdone.place
  obtain ⟨as, ⟨r, d, rfl, hd⟩, hes⟩ := hsent.complete
  refine ⟨es, r, d, htrace, hfirst, ?_, hes, hd⟩
  have hne : es ≠ [] := by
    rintro rfl
    cases hfirst
  rwa [htrace, List.getLast?_append_of_ne_nil _ hne] at hlast

end Sys2Proof.Machine
end

section
/-! SUPPORT. When a poll ends, and that a run of LO.RUN ends exactly when its polls do (43_logging_orchestrator R175, R183;
41_memory_write_engine R142, R149; 20_memory R74). -/

namespace Sys2Proof.Machine

/-! ## Counting the status frames that are `Ok` -/

theorem goodFrames_succ (s : State) (n : Nat) :
    s.goodFrames (n + 1) =
      s.goodFrames n + if bothOk (s.result (2 * n)) (s.result (2 * n + 1)) = .ok then 1 else 0 := by
  simp [State.goodFrames, List.range_succ, List.countP_append, List.countP_singleton]

theorem goodFrames_le (s : State) (n : Nat) : s.goodFrames n ≤ n := by
  simpa [State.goodFrames] using List.countP_le_length (l := List.range n)

theorem goodFrames_mono (s : State) : Monotone s.goodFrames :=
  monotone_nat_of_le_succ fun n => by
    rw [goodFrames_succ]
    omega

/-- In a state reached after n passes the coming frame is the n-th. -/
theorem StillPolling.goodFrames_succ {s t : State} {n : Nat} (h : StillPolling s n t) :
    s.goodFrames (n + 1) = s.goodFrames n + if frameInResult t = .ok then 1 else 0 := by
  rw [Machine.goodFrames_succ, frameInResult, h.result, h.result]
  rfl

/-! ## A poll whose device will be ready after k more status reads -/

/-- What the device of s, which will report WIP set k more times, has become after i status frames, and what they left in
ERR: a failed one left BUS_FAIL only, and only the others counted K_LEFT down. -/
structure FramesSeen (s : State) (k i : Nat) (t : State) : Prop where
  err : t.err = if s.goodFrames i = i then s.err else s.err ||| 0b00001#5
  wip : t.dev.wip = s.dev.wip
  left : s.dev.wip = true → t.dev.kLeft = .fin (k - s.goodFrames i)

theorem FramesSeen.refl {s : State} {k : Nat} (hk : if s.dev.wip then s.dev.kLeft = .fin k else k = 0) :
    FramesSeen s k 0 s where
  err := rfl
  wip := rfl
  left hw := by
    rw [if_pos hw] at hk
    exact hk

/-- ERR after one frame more. -/
theorem FramesSeen.err_next {s t : State} {k i : Nat} (h : FramesSeen s k i t) (ht : StillPolling s i t)
    (hx : pollExhausted t = false) :
    (pollPass t).err = if s.goodFrames (i + 1) = i + 1 then s.err else s.err ||| 0b00001#5 := by
  have hle := goodFrames_le s i
  rw [pollPass_err t hx, ht.goodFrames_succ, h.err]
  cases frameInResult t with
  | ok => simp [busFail]
  | failed =>
    rw [if_neg (show ¬BusResult.failed = .ok by simp), Nat.add_zero, if_neg (show ¬s.goodFrames i = i + 1 by omega)]
    split_ifs <;> simp [busFail, BitVec.or_assoc]

/-- A frame that is not the last the poll needs. -/
theorem FramesSeen.next {s t : State} {k i : Nat} (h : FramesSeen s k i t) (ht : StillPolling s i t)
    (hk : if s.dev.wip then s.dev.kLeft = .fin k else k = 0) (hx : pollExhausted t = false)
    (hle : s.goodFrames (i + 1) ≤ k) :
    (pollPass t).mwState = t.mwState ∧ FramesSeen s k (i + 1) (pollPass t) := by
  have herr := h.err_next ht hx
  have hsucc := ht.goodFrames_succ
  cases hr : frameInResult t with
  | ok =>
    rw [hr, if_pos rfl] at hsucc
    have hw : s.dev.wip = true := by
      by_contra hw
      rw [if_neg hw] at hk
      omega
    have hread : t.dev.statusRead = { t.dev with kLeft := .fin (k - s.goodFrames (i + 1)) } := by
      refine statusRead_counts (h.wip.trans hw) ?_
      rw [h.left hw, show k - s.goodFrames i = k - s.goodFrames (i + 1) + 1 by omega]
    obtain ⟨-, -, hmw, hdev⟩ := pollPass_observes hx hr
    rw [hread] at hdev
    have hwip : (pollPass t).dev.wip = s.dev.wip := by rw [hdev]; exact h.wip
    exact ⟨by rw [hmw, hwip, hw, if_pos rfl], herr, hwip, fun _ => by rw [hdev]⟩
  | failed =>
    rw [hr, if_neg (by simp), Nat.add_zero] at hsucc
    obtain ⟨-, hmw, hdev⟩ := pollPass_observes_nothing hx hr
    refine ⟨hmw, herr, ?_, fun hw => ?_⟩
    · rw [hdev]
      exact h.wip
    · rw [hdev, hsucc]
      exact h.left hw

/-- The frame after k good ones finds the device ready. -/
theorem FramesSeen.last {s t : State} {k i : Nat} (h : FramesSeen s k i t) (hi : s.goodFrames i = k) :
    t.dev.statusRead.wip = false := by
  cases hw : s.dev.wip with
  | true =>
    have hleft := h.left hw
    rw [hi, Nat.sub_self] at hleft
    rw [statusRead_commits (h.wip.trans hw) hleft]
    rfl
  | false => rw [statusRead_ready (h.wip.trans hw), h.wip, hw]

theorem StillPolling.afterWrite {s t : State} {n : Nat} (h : StillPolling s n t) : t.afterWrite = s.afterWrite := by
  rw [h.frame]
  rfl

/-- The poll ends with the (k+1)-th frame that is `Ok`, and the orchestrator moves on in LO_PERSIST. -/
theorem poll_ends_when_ready {s : State} {n k : Nat} (hpoll : s.polling = true)
    (hk : if s.dev.wip then s.dev.kLeft = .fin k else k = 0) (hadmit : pollAdmits s.cfg (s.pollCnt + (n + 1)) = true)
    (hn : s.goodFrames n = k) (hlast : s.goodFrames (n + 1) = k + 1) :
    ∃ t, core.run (n + 1) s = .next t ∧ t.mwState = .idle ∧ t.pollCnt = s.pollCnt + (n + 1) ∧
      t.statusByte.getLsbD 0 = false ∧ t.dev.wip = false ∧ t.loState = s.afterWrite.1 ∧ t.done = s.afterWrite.2.1 ∧
      t.err = if n = k then s.err else s.err ||| 0b00001#5 := by
  obtain ⟨t, hrun, ht, hseen⟩ := poll_goes_on (n := n) hpoll (pollAdmits_le _ _ _ (by omega) hadmit) (FramesSeen.refl hk)
    fun i t hi ht hx hseen => hseen.next ht hk hx (hn ▸ goodFrames_mono s (by omega))
  have hx : pollExhausted t = false := pollExhausted_of_admits t (by rwa [ht.cfg, ht.pollCnt, Nat.add_assoc])
  have hr : frameInResult t = .ok := by
    have hsucc := ht.goodFrames_succ
    by_contra hfail
    rw [if_neg hfail] at hsucc
    omega
  obtain ⟨hbyte, hbit, hmw, hdev⟩ := pollPass_observes hx hr
  have hready : (pollPass t).dev.wip = false := by rw [hdev]; exact hseen.last hn
  rw [hready, if_neg Bool.false_ne_true] at hmw
  have hstep := step_poll_ends (ht.polling hpoll) hmw
  rw [ht.afterWrite] at hstep
  refine ⟨_, run_snoc hrun hstep, hmw, ?_, by rw [hbyte, hbit, hready], hready, rfl,
    rfl, ?_⟩
  · rw [pollPass_frame hx]
    exact (congrArg (· + 1) ht.pollCnt).trans (Nat.add_assoc _ _ _)
  · refine (hseen.err_next ht hx).trans ?_
    rw [hlast]
    simp only [Nat.add_right_cancel_iff, eq_comm]

/-! ## A run ends exactly when its polls do -/

/-- A run that comes to rest leaves every polling state behind it. -/
theorem pollsEnd_of_rest {s t : State} {n : Nat} (hrun : core.run n s = .next t) (hidle : t.busy = false) : s.pollsEnd := by
  intro m u ⟨hu, hbusy⟩ _
  have hmn : m ≤ n := by
    by_contra hlt
    have := hbusy n t (by omega) hrun
    simp [hidle] at this
  refine ⟨n - m, t, ?_, ?_⟩
  · rwa [← run_add m (n - m) s u hu, Nat.add_sub_cancel' hmn]
  · by_contra hpoll
    simp [busy_of_polling (Bool.eq_true_of_not_eq_false hpoll)] at hidle

/-- Settles O60: a run at rest polls no more, a run whose polls end comes to its end, and a poll ends with the frame that
finds the device ready. -/
theorem loRunEndsIffEveryPollEnds : Obligations.LoRunEndsIffEveryPollEnds := by
  refine ⟨fun s s1 hidle h hl hexec => ?_, fun s n k => poll_ends_when_ready⟩
  obtain ⟨hexec', hstart⟩ := loRun_starts hidle h hl
  obtain rfl : s1 = loStart s := Host.Outcome.next.inj (hexec.symm.trans hexec')
  refine ⟨fun ⟨n, t, hrun, _, _, hrest⟩ => pollsEnd_of_rest hrun hrest, fun hpolls => ?_⟩
  obtain ⟨n, t, hrun, hend⟩ := hstart.ends hpolls
  obtain ⟨hlo, hdone, hrest, -⟩ := hend.at_end
  exact ⟨n, t, hrun, hlo, hdone, hrest⟩

end Sys2Proof.Machine
end

section
/-! SUPPORT. The success path of a complete LO.RUN, slot by slot (43_logging_orchestrator R176). -/

namespace Sys2Proof.Machine

/-- The invariant holds all along a run. -/
theorem Inv.run {s t : State} {n : Nat} (h : Inv s) (hrun : core.run n s = .next t) : Inv t := by
  induction n generalizing s with
  | zero =>
    cases hrun
    exact h
  | succ n ih =>
    cases hs : step s with
    | next u =>
      rw [run_succ n s u hs] at hrun
      exact ih (stepKeepsInvariant s u h hs) hrun
    | fault r =>
      have hstuck : core.step s = .fault r := hs
      simp [Host.Core.run, hstuck] at hrun
    | refused r =>
      have hstuck : core.step s = .refused r := hs
      simp [Host.Core.run, hstuck] at hrun

/-- Every primitive a complete run begun in s calls returns `Ok`, and every K_LEFT it draws is smaller than POLL_LIMIT. -/
structure State.Faultless (s : State) : Prop where
  finite : ∀ i, i < s.cfg.capacity / 2 → ∃ k, s.cycle i = .fin k ∧ pollAdmits s.cfg (k + 1) = true
  results : s.okFor (s.runCalls (s.cfg.capacity / 2))

theorem runCalls_mono (s : State) : Monotone s.runCalls :=
  monotone_nat_of_le_succ fun n => by
    rw [State.runCalls]
    omega

/-- A run begun in s has n samples in their slots in u, nothing having failed: c primitive calls and m temperature reads on,
the write engine at rest and the device ready. -/
structure Stored (s : State) (n c m : Nat) (u : State) : Prop where
  inv : Inv u
  cfg : u.cfg = s.cfg
  script : u.script = s.script
  err : u.err = s.err
  rest : u.mwState = .idle
  ready : u.dev.wip = false
  calls : u.busCalls = s.busCalls + c
  samples : u.samples = s.samples + m
  programs : u.programs = s.programs + n
  bytes : ∀ i, i < n →
    Memory.read (2 * i) u.dev.mem = (s.sample i).1 ∧ Memory.read (2 * i + 1) u.dev.mem = (s.sample i).2

/-- The calls of slot n and of those before it return `Ok`. -/
theorem Stored.results {s u : State} {n c m : Nat} (h : Stored s n c m u) (hs : s.Faultless) {i k : Nat}
    (hi : i < s.cfg.capacity / 2) (hk : c + k < s.runCalls (i + 1)) : u.result k = .ok := by
  rw [result_shift s u c k h.script h.calls]
  exact hs.results _ (hk.trans_le (runCalls_mono s hi))

/-! ## Before the loop -/

theorem Stored.start {s : State} (hidle : s.busy = false) (h : Inv s) (hl : s.loState = .idle) (hw : s.dev.wip = false) :
    Stored s 0 0 0 (loStart s) where
  inv := h.effect hidle .loRun
  cfg := (loStart_continues s).cfg
  script := (loStart_continues s).script
  err := by rw [loStart_idle hl]
  rest := by
    obtain ⟨-, hmw, -⟩ := of_not_busy s hidle
    rw [loStart_idle hl]
    exact hmw
  ready := by
    rw [loStart_idle hl]
    exact hw
  calls := by rw [loStart_idle hl, Nat.add_zero]
  samples := by rw [loStart_idle hl, Nat.add_zero]
  programs := by rw [loStart_idle hl, Nat.add_zero]
  bytes := nofun

/-- The reset transfer, `Ok`, leads to LO_CONFIGURING. -/
theorem Stored.reset {s u : State} (h : Stored s 0 0 0 u) (hs : s.Faultless) (hn : 0 < s.cfg.capacity / 2)
    (hl : u.loState = .resetting) : step u = .next (loResetting u) ∧ Stored s 0 1 0 (loResetting u) := by
  have hok : u.result 0 = .ok := h.results hs hn (by rw [State.runCalls]; omega)
  have hstep := h.inv.step_resetting hl
  exact ⟨hstep, {
    inv := stepKeepsInvariant _ _ h.inv hstep
    cfg := by simpa [loResetting] using h.cfg
    script := by simpa [loResetting] using h.script
    err := by
      rw [loResetting, scReset_err, hok]
      exact h.err
    rest := by simpa [loResetting] using h.rest
    ready := by simpa [loResetting] using h.ready
    calls := by
      rw [loResetting, scReset_frame]
      exact congrArg (· + 1) h.calls
    samples := by simpa [loResetting] using h.samples
    programs := by simpa [loResetting] using h.programs
    bytes := nofun }⟩

/-- The configuration transfer, `Ok`, leads to the first slot. -/
theorem Stored.configure {s u : State} (h : Stored s 0 1 0 u) (hs : s.Faultless) (hn : 0 < s.cfg.capacity / 2)
    (hl : u.loState = .configuring) : step u = .next (loConfiguring u) ∧ Stored s 0 2 0 (loConfiguring u) := by
  have hok : u.result 0 = .ok := h.results hs hn (by rw [State.runCalls, State.runCalls]; omega)
  have hstep := h.inv.step_configuring hl
  exact ⟨hstep, {
    inv := stepKeepsInvariant _ _ h.inv hstep
    cfg := by simpa [loConfiguring] using h.cfg
    script := by simpa [loConfiguring] using h.script
    err := by
      rw [loConfiguring, scConfig_err, hok]
      exact h.err
    rest := by simpa [loConfiguring] using h.rest
    ready := by simpa [loConfiguring] using h.ready
    calls := by
      rw [loConfiguring, scConfig_frame]
      exact congrArg (· + 1) h.calls
    samples := by simpa [loConfiguring] using h.samples
    programs := by simpa [loConfiguring] using h.programs
    bytes := nofun }⟩

/-! ## One slot -/

/-- The sample of slot n is read into SAMPLE_HI and SAMPLE_LO. -/
theorem Stored.acquire {s u : State} {n : Nat} (h : Stored s n (s.runCalls n) n u) (hs : s.Faultless)
    (hn : n < s.cfg.capacity / 2) (hl : u.loState = .acquire) :
    step u = .next (loAcquire u) ∧ Stored s n (s.runCalls n + 3) (n + 1) (loAcquire u) ∧
      ((loAcquire u).sampleHi, (loAcquire u).sampleLo) = s.sample n := by
  have hstep := h.inv.step_acquire hl
  have hok : ∀ k, k < 3 → u.result k = .ok := fun k hk => h.results hs hn (by rw [State.runCalls]; omega)
  obtain ⟨hhi, hlo⟩ := scRead_sample (hok 2 (by omega))
  have hsample : u.sample 0 = s.sample n := sample_shift s u n 0 h.script h.samples
  refine ⟨hstep, ?_, by rw [← hsample]; exact Prod.ext hhi hlo⟩
  exact {
    inv := stepKeepsInvariant _ _ h.inv hstep
    cfg := by simpa [loAcquire] using h.cfg
    script := by simpa [loAcquire] using h.script
    err := by
      rw [loAcquire, scRead_err, hok 0 (by omega), hok 1 (by omega), hok 2 (by omega)]
      exact h.err
    rest := by simpa [loAcquire] using h.rest
    ready := by simpa [loAcquire] using h.ready
    calls := by
      rw [loAcquire, scRead_frame]
      exact congrArg (· + 3) h.calls
    samples := by
      rw [loAcquire, scRead_frame]
      exact congrArg (· + 1) h.samples
    programs := by simpa [loAcquire] using h.programs
    bytes := by simpa [loAcquire] using h.bytes }

/-- MEM with slot n written holds the samples of n + 1 slots. -/
theorem bytes_next {p : Params} {a : StorageAddr} {mem mem' : List Host.Cell} {f : Nat → Byte × Byte} {n : Nat}
    (haddr : a.toNat = 2 * n)
    (hmem : mem' = Memory.writeCells (placeBytes p a.toNat 0 [(f n).1, (f n).2] []) mem) (hp : inPage p a 2 = true)
    (hwf : Memory.wf mem)
    (hbytes : ∀ i, i < n → Memory.read (2 * i) mem = (f i).1 ∧ Memory.read (2 * i + 1) mem = (f i).2) :
    ∀ i, i < n + 1 → Memory.read (2 * i) mem' = (f i).1 ∧ Memory.read (2 * i + 1) mem' = (f i).2 := by
  intro i hi
  rw [hmem, read_written p a 2 _ mem _ hp rfl hwf, read_written p a 2 _ mem _ hp rfl hwf, haddr]
  rcases Nat.lt_succ_iff_lt_or_eq.mp hi with hlt | rfl
  · rw [if_neg (by omega), if_neg (by omega)]
    exact hbytes i hlt
  · rw [if_pos (by omega), if_pos (by omega), Nat.sub_self, Nat.add_sub_cancel_left]
    exact ⟨rfl, rfl⟩

/-- The write of slot n, whose sample is in the registers, runs to its end with the sample in MEM. -/
theorem Stored.write {s u : State} {n : Nat} (h : Stored s n (s.runCalls n + 3) (n + 1) u) (hs : s.Faultless)
    (hn : n < s.cfg.capacity / 2) (hl : u.loState = .persist) (haddr : u.logAddr.toNat = 2 * n)
    (hsample : (u.sampleHi, u.sampleLo) = s.sample n) :
    ∃ k w, core.run k u = .next (afterPersist w) ∧ w.loState = .persist ∧ w.mwState = .idle ∧
      w.logAddr.toNat = 2 * n ∧ Stored s (n + 1) (s.runCalls (n + 1)) (n + 1) (afterPersist w) := by
  obtain ⟨k, hk, hadmit⟩ := hs.finite n hn
  have hbusy : s.busyReads n = k := by rw [State.busyReads, hk]
  have hcalls : s.runCalls (n + 1) = s.runCalls n + 7 + 2 * k := by rw [State.runCalls, hbusy]
  have hp := slot_inPage h.inv.legal h.inv.addrEven
  obtain ⟨w, hrun, hw⟩ := write_finishes u.logAddr 2 k [u.sampleHi, u.sampleLo] u h.inv.scState_idle h.inv.mrState_idle
    (slot_inRange h.inv.addrRange) hp rfl h.ready (h.inv.pendIdle h.ready)
    ((cycle_shift s u n 0 h.script h.programs).trans hk) (by rwa [h.cfg])
    fun i hi => h.results hs hn (by rw [hcalls]; omega)
  have hrun' : core.run (k + 1) u = .next (afterPersist w) :=
    (run_succ k u _ (step_begins_write hl h.inv.scState_idle h.rest h.inv.mrState_idle)).trans hrun
  refine ⟨k + 1, w, hrun', by rw [hw]; exact hl, by rw [hw], by rw [hw]; exact haddr, ?_⟩
  have hdev : w.dev.mem = Memory.writeCells (placeBytes u.cfg u.logAddr.toNat 0 [(s.sample n).1, (s.sample n).2] [])
      u.dev.mem := by
    rw [hw, ← hsample]
  exact {
    inv := h.inv.run hrun'
    cfg := by
      rw [afterPersist_cfg, hw]
      exact h.cfg
    script := by
      rw [afterPersist_script, hw]
      exact h.script
    err := by
      rw [afterPersist_err, hw]
      exact h.err
    rest := by rw [afterPersist_mwState, hw]
    ready := by
      rw [afterPersist_dev, hw]
      exact h.ready
    calls := by
      rw [afterPersist_busCalls, hw, hcalls]
      simp only [h.calls]
      omega
    samples := by
      rw [afterPersist_samples, hw]
      exact h.samples
    programs := by
      rw [afterPersist_programs, hw]
      exact congrArg (· + 1) h.programs
    bytes := by
      rw [afterPersist_dev]
      exact bytes_next haddr hdev hp h.inv.memCanonical h.bytes }

/-- The pacing delay leads to the next slot and changes nothing that was stored. -/
theorem Stored.pace {s u : State} {n c m : Nat} (h : Stored s n c m u) (hl : u.loState = .pace) :
    step u = .next (loPace u) ∧ Stored s n c m (loPace u) := by
  have hstep := h.inv.step_pace hl
  exact ⟨hstep, { h with inv := stepKeepsInvariant _ _ h.inv hstep }⟩

/-! ## The loop -/

/-- The acquisition and the write of slot n, and the pacing delay where slots remain (R170, R173). -/
theorem Stored.slot {s u : State} {n : Nat} (h : Stored s n (s.runCalls n) n u) (hs : s.Faultless)
    (hn : n < s.cfg.capacity / 2) (hl : u.loState = .acquire) (haddr : u.logAddr.toNat = 2 * n) :
    ∃ k v, core.run k u = .next v ∧ Stored s (n + 1) (s.runCalls (n + 1)) (n + 1) v ∧
      if 2 * n + 2 < s.cfg.capacity then v.loState = .acquire ∧ v.logAddr.toNat = 2 * (n + 1) else v.loState = .done := by
  obtain ⟨hstep, hread, hsample⟩ := h.acquire hs hn hl
  obtain ⟨k, w, hrun, hwl, hwm, hwaddr, hwrote⟩ := hread.write hs hn rfl (by simpa [loAcquire]) hsample
  have hslot : core.run (k + 1) u = .next (afterPersist w) := (run_succ k u _ hstep).trans hrun
  have hmore : moreSlots w.cfg w.logAddr = decide (2 * n + 2 < s.cfg.capacity) := by
    rw [moreSlots, hwaddr, ← afterPersist_cfg, hwrote.cfg]
  by_cases hroom : 2 * n + 2 < s.cfg.capacity
  · have hpace := afterPersist_pace w hwl hwm (hmore.trans (decide_eq_true hroom))
    obtain ⟨hstep', hpaced⟩ := hwrote.pace (by rw [hpace])
    have hnext := logAddr_advance hwrote.inv.legal (hwrote.inv.paceRoom (by rw [hpace]))
    refine ⟨_, _, run_snoc hslot hstep', hpaced, ?_⟩
    rw [if_pos hroom]
    exact ⟨rfl, hnext.trans (by rw [afterPersist_logAddr, hwaddr, Nat.mul_succ])⟩
  · refine ⟨_, _, hslot, hwrote, ?_⟩
    rw [if_neg hroom, afterPersist_done w hwl hwm (hmore.trans (decide_eq_false hroom))]

/-- From slot n with j more after it the run comes to LO_DONE with every sample stored. -/
theorem Stored.finishes {s u : State} {n j : Nat} (h : Stored s n (s.runCalls n) n u) (hs : s.Faultless)
    (hj : n + j + 1 = s.cfg.capacity / 2) (hl : u.loState = .acquire) (haddr : u.logAddr.toNat = 2 * n) :
    ∃ i t c m, core.run i u = .next t ∧ t.loState = .done ∧ Stored s (s.cfg.capacity / 2) c m t := by
  have heven := legal_capacity_even s.cfg (h.cfg ▸ h.inv.legal)
  induction j generalizing u n with
  | zero =>
    obtain ⟨k, v, hrun, hv, hdone⟩ := h.slot hs (by omega) hl haddr
    rw [if_neg (by omega)] at hdone
    exact ⟨k, v, _, _, hrun, hdone, hj ▸ hv⟩
  | succ j ih =>
    obtain ⟨k, v, hrun, hv, hnext⟩ := h.slot hs (by omega) hl haddr
    rw [if_pos (by omega)] at hnext
    obtain ⟨hl', haddr'⟩ := hnext
    obtain ⟨i, t, c, m, hrest, hdone, hall⟩ := ih hv (by omega) hl' haddr'
    exact ⟨k + i, t, c, m, (run_add k i u v hrun).trans hrest, hdone, hall⟩

/-- Settles O47: reset and configuration, then slot after slot. -/
theorem loRunLogsEverySample : Obligations.LoRunLogsEverySample := by
  intro s hidle h hl hw hfinite hok
  have hs : s.Faultless := ⟨hfinite, hok⟩
  have hcap := legal_capacity s.cfg h.legal
  have hstart := Stored.start hidle h hl hw
  obtain ⟨hreset, hstored⟩ := hstart.reset hs (by omega) (by rw [loStart_idle hl])
  obtain ⟨hconfig, hstored⟩ := hstored.configure hs (by omega) rfl
  have hrun := run_snoc (run_snoc (run_zero _) hreset) hconfig
  obtain ⟨i, t, c, m, hrun', hdone, hall⟩ :=
    Stored.finishes (j := s.cfg.capacity / 2 - 1) hstored hs (by omega) rfl rfl
  refine ⟨_, 2 + i, t, exec_idle hidle .loRun, (run_add 2 i _ _ hrun).trans hrun', hdone,
    hall.inv.doneMeansDone.mpr hdone, ?_, hall.err, hall.bytes⟩
  simp [State.busy, hall.inv.scState_idle, hall.rest, hall.inv.mrState_idle, hdone, LoState.running]

end Sys2Proof.Machine
end

section
/-! SUPPORT. A step from the invariant answers: no engine stands inside an operation (60_exceptions R190), and the one
request refused is a command of no format (30_encoding R91). -/

namespace Sys2Proof.Machine

/-- r is a command that the decoder rejects (30_encoding R91). -/
def MalformedCommand (p : Params) (r : Request) : Prop :=
  ∃ op a n d why, r = .command op a n d ∧ decode p r = .rejected why

/-- With BUSY = 0 a request is answered, unless it is a malformed command, which is refused as one. -/
theorem serve_answers (r : Request) {s : State} (hidle : s.busy = false) :
    (∃ t, serve r s = .next t) ∨ MalformedCommand s.cfg r ∧ serve r s = .refused .malformedCommand := by
  cases hd : decode s.cfg r with
  | instr i => exact .inl ⟨effect i s, by simp only [serve, hd, exec_idle hidle i]⟩
  | resetEvent => exact .inl ⟨coreReset s, by simp only [serve, hd]⟩
  | rejected why =>
    have hserve : serve r s = rejected r s := by simp only [serve, hd]
    cases r with
    | command op a n d => exact .inr ⟨⟨op, a, n, d, why, rfl, hd⟩, hserve⟩
    | hardReset => cases hd
    | memFrame | twiWrite | twiRead =>
      exact .inl ((rejected_keeps_core hidle (by nofun) (by nofun)).imp fun _ ht => hserve.trans ht.1)

/-- With BUSY = 1 the invariant leaves the poll its next pass, or the orchestrator its next move. -/
theorem Inv.step_busy {s : State} (h : Inv s) (hbusy : s.busy = true) : ∃ t, step s = .next t := by
  rcases h.mwState_cases with hpoll | hrest
  · exact ⟨_, step_polling s (by simp [State.polling, h.scState_idle, h.mrState_idle, hpoll])⟩
  · exact ⟨_, step_orchestrates hbusy h.scState_idle hrest h.mrState_idle⟩

/-- A step from the invariant answers a next state, or refuses a malformed command that is the oldest request. -/
theorem Inv.step_answers {s : State} (h : Inv s) :
    (∃ t, step s = .next t) ∨
      ∃ r, s.requests.head? = some r ∧ MalformedCommand s.cfg r ∧ step s = .refused .malformedCommand := by
  cases hbusy : s.busy with
  | true => exact .inl (h.step_busy hbusy)
  | false =>
    cases hq : s.requests with
    | nil => exact .inl ⟨s, idleCoreWaits s hbusy hq⟩
    | cons r rest =>
      rw [step_serves hbusy hq]
      exact (serve_answers r (s := { s with requests := rest }) hbusy).imp_right fun hrefused => ⟨r, rfl, hrefused⟩

/-- Settles O51: a step from the invariant that answers no next state refuses a malformed command. -/
theorem stepNeverFaults : Obligations.StepNeverFaults := by
  intro s h
  rcases h.step_answers with ⟨t, ht⟩ | ⟨_, hhead, ⟨op, a, n, d, why, rfl, hd⟩, hrefused⟩
  · rw [ht]
    exact ⟨nofun, nofun⟩
  · rw [hrefused]
    refine ⟨nofun, ?_⟩
    rintro _ ⟨⟩
    exact ⟨rfl, op, a, n, d, why, hhead, hd⟩

end Sys2Proof.Machine
end

section
/-! SUPPORT. Requests and the reset event when BUSY = 0 (00_scope R9; 10_state R42; 70_reset R220, R238), and a poll that
POLL_LIMIT = INF lets go on for ever (70_reset R230). -/

namespace Sys2Proof.Machine

/-- Settles O9: the oldest request is served, and it is an instruction. -/
theorem stepExecutesDecodedRequest : Obligations.StepExecutesDecodedRequest :=
  fun _ _ _ _ => step_executes

/-- Settles O13: every instruction is its effect, issued when BUSY = 0. -/
theorem everyInstructionAnswersWhenIdle : Obligations.EveryInstructionAnswersWhenIdle :=
  fun s i hidle => ⟨effect i s, exec_idle hidle i⟩

/-- The reset event, served, resets CORE. -/
theorem serve_hardReset (s : State) : serve .hardReset s = .next (coreReset s) := rfl

/-- The hardware reset in full: the registers at their values of R42, those it leaves unspecified drawn anew, and all else as
it was (70_reset R220). -/
theorem coreReset_frame (s : State) :
    coreReset s = { s with
      scState := .idle, mwState := .idle, mrState := .idle, loState := .idle
      logAddr := 0#16, done := false, err := 0#5, pollCnt := 0, rdata := []
      sampleHi := (coreReset s).sampleHi, sampleLo := (coreReset s).sampleLo, raw12 := (coreReset s).raw12
      statusByte := (coreReset s).statusByte, draws := (coreReset s).draws } := rfl

/-- Settles O14: the step serves the reset event. -/
theorem hardwareResetSetsRegisters : Obligations.HardwareResetSetsRegisters := by
  intro s rest hidle hq
  exact ⟨coreReset { s with requests := rest }, by rw [step_serves hidle hq, serve_hardReset], coreReset_frame _⟩

/-- With POLL_LIMIT = INF every number of status frames is admitted. -/
theorem pollAdmits_inf {p : Params} (h : p.pollLimit = .inf) (n : Nat) : pollAdmits p n = true := by
  simp [pollAdmits, h]

/-- A pass over a device that never clears WIP, or on a bus whose status frames fail, ends no poll and leaves the device as
it was (41_memory_write_engine R149; 20_memory R78). -/
theorem SameDevice.next {s t : State} {n i : Nat} (h : SameDevice s t) (ht : StillPolling s i t) (hi : i < n)
    (hvain : s.dev.neverReady = true ∨ s.pollFailsFor n) (hx : pollExhausted t = false) :
    (pollPass t).mwState = t.mwState ∧ SameDevice s (pollPass t) := by
  have hpass : t.dev.neverReady = true ∨ frameInResult t = .failed := by
    refine hvain.imp (fun hstuck => ?_) fun hfail => ?_
    · rw [h]
      exact hstuck
    · rw [frameInResult, ht.result, ht.result]
      exact hfail i hi
  obtain ⟨hmw, hdev⟩ := pollPass_in_vain hx hpass
  exact ⟨hmw, by rw [SameDevice, hdev, h]⟩

/-- Settles O36: each pass is in vain and POLL_LIMIT admits one more, so after n of them the poll still goes on. -/
theorem unboundedPollHangs : Obligations.UnboundedPollHangs := by
  intro s n hpoll hlimit hvain
  obtain ⟨t, hrun, ht, hsame⟩ := poll_goes_on (P := fun _ => SameDevice s) hpoll (pollAdmits_inf hlimit _) rfl
    fun i t hi ht hx hsame => hsame.next ht hi hvain hx
  have ⟨hdone, hlo, haddr⟩ : t.done = s.done ∧ t.loState = s.loState ∧ t.logAddr = s.logAddr := by
    rw [ht.frame]
    exact ⟨rfl, rfl, rfl⟩
  exact ⟨t, hrun, busy_of_polling (ht.polling hpoll), hdone, hlo, haddr, ht.pollCnt, by rw [hsame]⟩

end Sys2Proof.Machine
end
